-- ==== Sys2Proof/Word.lean ====
section
/-! DEFINITION. The block's one word type: the byte (00_scope.md R8). -/

namespace Sys2Proof

/-- "A byte is 8 bits" (R8). Every access to the frame buffer and every transport acceptance moves one (R43). -/
abbrev Byte := BitVec 8

end Sys2Proof
end

