-- ==== Sys2Proof/Machine/Flags.lean ====
section
/-! DEFINITION. The block has no condition codes and no status flags beyond `rsp` (10_state.md R34), so this file
holds the one value computed over the bytes of a frame: the XOR checksum (30_encoding.md R63, 40_codec.md R91, R98). -/

namespace Sys2Proof.Machine

/-- One fold of the checksum accumulator: `chk <- chk XOR b` (R24, R91). -/
def chkFold (chk b : Byte) : Byte := chk ^^^ b

/-- The XOR of all bytes of a sequence, starting from 0x00 (R63). -/
def xorAll (bs : List Byte) : Byte := bs.foldl chkFold 0x00

end Sys2Proof.Machine
end

