-- ==== Sys2Proof/Config.lean ====
section
/-! DEFINITION. What an implementation of the block fixes (00_scope.md R7): the frame capacity and the opcode map, as
data; the record of the serial line's constants (10_state.md R30); and the free values a reset leaves (R19, R230).
The parameters' constraints are in Decode.lean (`OpcodeMap.Ok`, `Config.Ok`), beside the reference values. -/

namespace Sys2Proof

/-- `kind(c)`, the constructor of a Command (R76), in the source's order (R70). -/
inductive Kind where
  | handshake | setBaud | readBaud | memoryMode | stopMode | update | screenRotation | loadFont | loadPicture
  | setColor | setEnFont | setChFont
  | drawPixel | drawLine | fillRect | drawCircle | fillCircle | drawTriangle | fillTriangle | clear
  | drawString | drawBitmap
deriving DecidableEq, Repr

/-- The payload layouts of 30_encoding.md R64 to R69. -/
inductive Format where
  | n | b1 | b2 | c2 | c3 | c4 | c6 | s | w32
deriving DecidableEq, Repr

/-- OPCODE_MAP (R7, R70): the opcode byte of each command. -/
structure OpcodeMap where
  handshake      : Byte
  setBaud        : Byte
  readBaud       : Byte
  memoryMode     : Byte
  stopMode       : Byte
  update         : Byte
  screenRotation : Byte
  loadFont       : Byte
  loadPicture    : Byte
  setColor       : Byte
  setEnFont      : Byte
  setChFont      : Byte
  drawPixel      : Byte
  drawLine       : Byte
  fillRect       : Byte
  drawCircle     : Byte
  fillCircle     : Byte
  drawTriangle   : Byte
  fillTriangle   : Byte
  clear          : Byte
  drawString     : Byte
  drawBitmap     : Byte
deriving DecidableEq, Repr

/-- The two open parameters of the block (R7). A machine never changes them; they ride in the state, so a statement
about every state is a statement about every parameter value. DESIGN CHOICE (log 4), safe. -/
structure Config where
  /-- MAX_FRAME, the capacity of the frame buffer in bytes. -/
  maxFrame : Nat
  /-- OPCODE_MAP. -/
  opcodes  : OpcodeMap
deriving DecidableEq, Repr

/-- BITORDER of R30. -/
inductive BitOrder where
  | lsbFirst
deriving DecidableEq, Repr

/-- PARITY of R30. -/
inductive Parity where
  | none
deriving DecidableEq, Repr

/-- LINECFG (R30), field by field. -/
structure LineCfg where
  baud     : Nat
  raw      : Bool
  hupcl    : Bool
  flowCtl  : Bool
  dataBits : Nat
  parity   : Parity
  stopBits : Nat
  bitOrder : BitOrder
deriving DecidableEq, Repr

/-- The value of `wp` after the k-th reset, before its bound is applied: unspecified (R19, R230). Log 3. -/
opaque Config.freeWp : Nat → Nat

/-- The value of `chk` after the k-th reset: unspecified (R19, R230). Log 3. -/
opaque Config.freeChk : Nat → Byte

/-- The value of `flen` after the k-th reset: unspecified (R19, R230). Log 3. -/
opaque Config.freeFlen : Nat → BitVec 16

/-- The value of `txi` after the k-th reset, an index 0..65535 (R20): unspecified (R19, R230). Log 3. -/
opaque Config.freeTxi : Nat → BitVec 16

end Sys2Proof
end

