-- ==== Sys2Proof/Syntax.lean ====
section
/-! DEFINITION. The commands the port accepts (30_encoding.md R76): one constructor per row of the opcode table. -/

namespace Sys2Proof

/-- A Command (R76). Integer operands are mathematical integers (R9); their ranges are the checks of WellFormed.lean
(R78). A text or path is a byte sequence, without its NUL. Argument order is that of R76. -/
inductive Instr where
  | handshake
  | setBaud (baud : Int)
  | readBaud
  | memoryMode (mode : Int)
  | stopMode
  | update
  | screenRotation (rot : Int)
  | loadFont
  | loadPicture
  | setColor (fg bg : Int)
  | setEnFont (font : Int)
  | setChFont (font : Int)
  | drawPixel (x y : Int)
  | drawLine (x0 y0 x1 y1 : Int)
  | fillRect (x0 y0 x1 y1 : Int)
  | drawCircle (x0 y0 r : Int)
  | fillCircle (x0 y0 r : Int)
  | drawTriangle (x0 y0 x1 y1 x2 y2 : Int)
  | fillTriangle (x0 y0 x1 y1 x2 y2 : Int)
  | clear
  | drawString (text : List Byte) (x0 y0 : Int)
  | drawBitmap (path : List Byte) (x0 y0 : Int)
deriving DecidableEq, Repr

/-- `kind(c)` (R76): the constructor. -/
def Instr.kind : Instr → Kind
  | .handshake => .handshake
  | .setBaud _ => .setBaud
  | .readBaud => .readBaud
  | .memoryMode _ => .memoryMode
  | .stopMode => .stopMode
  | .update => .update
  | .screenRotation _ => .screenRotation
  | .loadFont => .loadFont
  | .loadPicture => .loadPicture
  | .setColor _ _ => .setColor
  | .setEnFont _ => .setEnFont
  | .setChFont _ => .setChFont
  | .drawPixel _ _ => .drawPixel
  | .drawLine _ _ _ _ => .drawLine
  | .fillRect _ _ _ _ => .fillRect
  | .drawCircle _ _ _ => .drawCircle
  | .fillCircle _ _ _ => .fillCircle
  | .drawTriangle _ _ _ _ _ _ => .drawTriangle
  | .fillTriangle _ _ _ _ _ _ => .fillTriangle
  | .clear => .clear
  | .drawString _ _ _ => .drawString
  | .drawBitmap _ _ _ => .drawBitmap

end Sys2Proof
end

