-- ==== Sys2Proof/Machine/Operands.lean ====
section
/-! DEFINITION. Operand assembly: how each typed parameter becomes bytes (00_scope.md R9, 30_encoding.md R71), and the
payload of each format (R64 to R69). -/

namespace Sys2Proof.Machine

/-- `u16(v) = v mod 2^16` (R9): "out-of-range values wrap silently" (R71). -/
def u16 (v : Int) : BitVec 16 := BitVec.ofInt 16 v

/-- Bits 15 to 8 of a 16-bit value. -/
def hiByte (v : BitVec 16) : Byte := v.extractLsb' 8 8

/-- Bits 7 to 0 of a 16-bit value. -/
def loByte (v : BitVec 16) : Byte := v.extractLsb' 0 8

/-- `hi(v) = u16(v)[15:8]` (R9). -/
def hi (v : Int) : Byte := hiByte (u16 v)

/-- `lo(v) = u16(v)[7:0]` (R9). -/
def lo (v : Int) : Byte := loByte (u16 v)

/-- A byte operand, written unchanged (R71). -/
def byteOf (v : Int) : Byte := BitVec.ofInt 8 v

/-- Format N: the empty sequence (R64). -/
def payloadN : List Byte := []

/-- Format B1: one byte (R65). -/
def payloadB1 (v : Int) : List Byte := [byteOf v]

/-- Format B2: the foreground byte, then the background byte (R66). -/
def payloadB2 (fg bg : Int) : List Byte := [byteOf fg, byteOf bg]

/-- Formats C2, C3, C4, C6: 16-bit fields `[hi(v), lo(v)]` in the listed order (R67). -/
def payloadC : List Int → List Byte
  | [] => []
  | v :: vs => hi v :: lo v :: payloadC vs

/-- Format S: `[hi(x0), lo(x0), hi(y0), lo(y0)] ++ s ++ [0x00]` (R68). -/
def payloadS (text : List Byte) (x0 y0 : Int) : List Byte := payloadC [x0, y0] ++ text ++ [0x00]

/-- Format W32: four bytes, most significant first (R69). -/
def payloadW32 (v : Int) : List Byte :=
  let b : BitVec 32 := BitVec.ofInt 32 v
  [b.extractLsb' 24 8, b.extractLsb' 16 8, b.extractLsb' 8 8, b.extractLsb' 0 8]

/-- The format of each command (R70). -/
def formatOf : Kind → Format
  | .handshake => .n
  | .setBaud => .w32
  | .readBaud => .n
  | .memoryMode => .b1
  | .stopMode => .n
  | .update => .n
  | .screenRotation => .b1
  | .loadFont => .n
  | .loadPicture => .n
  | .setColor => .b2
  | .setEnFont => .b1
  | .setChFont => .b1
  | .drawPixel => .c2
  | .drawLine => .c4
  | .fillRect => .c4
  | .drawCircle => .c3
  | .fillCircle => .c3
  | .drawTriangle => .c6
  | .fillTriangle => .c6
  | .clear => .n
  | .drawString => .s
  | .drawBitmap => .s

/-- The payload length P of a format, for a text of L bytes where the format has one (R64 to R69). -/
def payloadLength (L : Nat) : Format → Nat
  | .n => 0
  | .b1 => 1
  | .b2 => 2
  | .c2 => 4
  | .c3 => 6
  | .c4 => 8
  | .c6 => 12
  | .s => 5 + L
  | .w32 => 4

end Sys2Proof.Machine
end

