-- ==== Sys2Proof/WellFormed.lean ====
section
/-! DEFINITION. The named well-formedness checks of 30_encoding.md R78. A command that fails one is refused at the
command port and never reaches the Encoder. -/

namespace Sys2Proof

/-- The checks of R78, by name. -/
inductive WfCheck where
  | wfByte | wfCoord | wfWord | wfCstr
deriving DecidableEq, Repr

/-- The u8 parameters of a command (R76). -/
def Instr.byteArgs : Instr → List Int
  | .handshake => []
  | .setBaud _ => []
  | .readBaud => []
  | .memoryMode mode => [mode]
  | .stopMode => []
  | .update => []
  | .screenRotation rot => [rot]
  | .loadFont => []
  | .loadPicture => []
  | .setColor fg bg => [fg, bg]
  | .setEnFont font => [font]
  | .setChFont font => [font]
  | .drawPixel _ _ => []
  | .drawLine _ _ _ _ => []
  | .fillRect _ _ _ _ => []
  | .drawCircle _ _ _ => []
  | .fillCircle _ _ _ => []
  | .drawTriangle _ _ _ _ _ _ => []
  | .fillTriangle _ _ _ _ _ _ => []
  | .clear => []
  | .drawString _ _ _ => []
  | .drawBitmap _ _ _ => []

/-- The s32 parameters of a command (R76). -/
def Instr.coordArgs : Instr → List Int
  | .handshake => []
  | .setBaud _ => []
  | .readBaud => []
  | .memoryMode _ => []
  | .stopMode => []
  | .update => []
  | .screenRotation _ => []
  | .loadFont => []
  | .loadPicture => []
  | .setColor _ _ => []
  | .setEnFont _ => []
  | .setChFont _ => []
  | .drawPixel x y => [x, y]
  | .drawLine x0 y0 x1 y1 => [x0, y0, x1, y1]
  | .fillRect x0 y0 x1 y1 => [x0, y0, x1, y1]
  | .drawCircle x0 y0 r => [x0, y0, r]
  | .fillCircle x0 y0 r => [x0, y0, r]
  | .drawTriangle x0 y0 x1 y1 x2 y2 => [x0, y0, x1, y1, x2, y2]
  | .fillTriangle x0 y0 x1 y1 x2 y2 => [x0, y0, x1, y1, x2, y2]
  | .clear => []
  | .drawString _ x0 y0 => [x0, y0]
  | .drawBitmap _ x0 y0 => [x0, y0]

/-- The u32 parameter of set-baud (R76). -/
def Instr.wordArgs : Instr → List Int
  | .handshake => []
  | .setBaud baud => [baud]
  | .readBaud => []
  | .memoryMode _ => []
  | .stopMode => []
  | .update => []
  | .screenRotation _ => []
  | .loadFont => []
  | .loadPicture => []
  | .setColor _ _ => []
  | .setEnFont _ => []
  | .setChFont _ => []
  | .drawPixel _ _ => []
  | .drawLine _ _ _ _ => []
  | .fillRect _ _ _ _ => []
  | .drawCircle _ _ _ => []
  | .fillCircle _ _ _ => []
  | .drawTriangle _ _ _ _ _ _ => []
  | .fillTriangle _ _ _ _ _ _ => []
  | .clear => []
  | .drawString _ _ _ => []
  | .drawBitmap _ _ _ => []

/-- The text or path of a command (R76), empty where it has none. -/
def Instr.text : Instr → List Byte
  | .handshake => []
  | .setBaud _ => []
  | .readBaud => []
  | .memoryMode _ => []
  | .stopMode => []
  | .update => []
  | .screenRotation _ => []
  | .loadFont => []
  | .loadPicture => []
  | .setColor _ _ => []
  | .setEnFont _ => []
  | .setChFont _ => []
  | .drawPixel _ _ => []
  | .drawLine _ _ _ _ => []
  | .fillRect _ _ _ _ => []
  | .drawCircle _ _ _ => []
  | .fillCircle _ _ _ => []
  | .drawTriangle _ _ _ _ _ _ => []
  | .fillTriangle _ _ _ _ _ _ => []
  | .clear => []
  | .drawString text _ _ => text
  | .drawBitmap path _ _ => path

/-- One check of R78 on one command. -/
def Instr.passes (i : Instr) : WfCheck → Bool
  | .wfByte => i.byteArgs.all fun v => decide (0 ≤ v ∧ v ≤ 255)
  | .wfCoord => i.coordArgs.all fun v => decide (-2 ^ 31 ≤ v ∧ v ≤ 2 ^ 31 - 1)
  | .wfWord => i.wordArgs.all fun v => decide (0 ≤ v ∧ v ≤ 2 ^ 32 - 1)
  | .wfCstr => i.text.all fun b => b != 0x00

/-- "A Command is well-formed exactly when each named check below passes" (R78). -/
def Instr.wellFormed (i : Instr) : Bool :=
  i.passes .wfByte && i.passes .wfCoord && i.passes .wfWord && i.passes .wfCstr

end Sys2Proof
end

