-- ==== Sys2Proof/Decode.lean ====
section
/-! DEFINITION. The frame as an encoding (30_encoding.md): the opcode map's reference values (R70), the test decode
(R75), total on any bytes and rejecting by name, and after it the encoder (40_codec.md R102). The block itself has no
decoder: "Test decode (not part of the block)" (R75). -/

namespace Sys2Proof

/-! ### The opcode map (R70, R72) -/

/-- All kinds, in the order of R70. -/
def Kind.all : List Kind :=
  [.handshake, .setBaud, .readBaud, .memoryMode, .stopMode, .update, .screenRotation, .loadFont, .loadPicture,
   .setColor, .setEnFont, .setChFont, .drawPixel, .drawLine, .fillRect, .drawCircle, .fillCircle, .drawTriangle,
   .fillTriangle, .clear, .drawString, .drawBitmap]

/-- `OPCODE_MAP(kind)` (R72). -/
def OpcodeMap.opcode (m : OpcodeMap) : Kind → Byte
  | .handshake => m.handshake
  | .setBaud => m.setBaud
  | .readBaud => m.readBaud
  | .memoryMode => m.memoryMode
  | .stopMode => m.stopMode
  | .update => m.update
  | .screenRotation => m.screenRotation
  | .loadFont => m.loadFont
  | .loadPicture => m.loadPicture
  | .setColor => m.setColor
  | .setEnFont => m.setEnFont
  | .setChFont => m.setChFont
  | .drawPixel => m.drawPixel
  | .drawLine => m.drawLine
  | .fillRect => m.fillRect
  | .drawCircle => m.drawCircle
  | .fillCircle => m.fillCircle
  | .drawTriangle => m.drawTriangle
  | .fillTriangle => m.fillTriangle
  | .clear => m.clear
  | .drawString => m.drawString
  | .drawBitmap => m.drawBitmap

/-- "Constraint on any OPCODE_MAP: it is injective, ... It maps draw-pixel to 0x20 and clear to 0x2E" (R70). -/
abbrev OpcodeMap.Ok (m : OpcodeMap) : Prop :=
  (Kind.all.map m.opcode).Nodup ∧ m.drawPixel = 0x20 ∧ m.clear = 0x2E

/-- The default map of R70. PRESUMED (log 5): only draw-pixel and clear are the source's; the other twenty values are
the spec's general knowledge (G1). -/
def OpcodeMap.table : OpcodeMap where
  handshake := 0x00
  setBaud := 0x01
  readBaud := 0x02
  memoryMode := 0x07
  stopMode := 0x08
  update := 0x0A
  screenRotation := 0x0D
  loadFont := 0x0E
  loadPicture := 0x0F
  setColor := 0x10
  setEnFont := 0x1E
  setChFont := 0x1F
  drawPixel := 0x20
  drawLine := 0x22
  fillRect := 0x24
  drawCircle := 0x26
  fillCircle := 0x27
  drawTriangle := 0x28
  fillTriangle := 0x29
  clear := 0x2E
  drawString := 0x30
  drawBitmap := 0x70

/-- The constraints of R7 on the parameters: 21 <= MAX_FRAME <= 65535, and those of R70 on the map. -/
abbrev Config.Ok (c : Config) : Prop :=
  21 ≤ c.maxFrame ∧ c.maxFrame ≤ 65535 ∧ c.opcodes.Ok

/-- The reference parameters: MAX_FRAME 512 (R7) and the default map (R70). PRESUMED (log 4, log 5). -/
def Config.reference : Config where
  maxFrame := 512
  opcodes := OpcodeMap.table

/-- The kind an opcode byte stands for: "f[3] = OPCODE_MAP(kind) for exactly one kind" (R75). -/
def OpcodeMap.kindOf (m : OpcodeMap) (op : Byte) : Option Kind :=
  match Kind.all.filter (fun k => m.opcode k == op) with
  | [k] => some k
  | _ => none

/-! ### Decoding a frame (R75) -/

/-- Why a byte sequence is no frame: the conditions of R75, by name. -/
inductive DecodeError where
  | tooShort | badMarker | badLength | badTrailer | badChecksum | unknownOpcode | badPayloadLength | missingNul | innerNul
deriving DecidableEq, Repr

/-- The trailer of every frame (R60). -/
def trailer : List Byte := [0xCC, 0x33, 0xC3, 0x3C]

/-- The last condition of R75: the payload has the length of the format, and a format S payload ends in its only NUL
beyond the coordinate bytes. -/
def checkPayload (fmt : Format) (p : List Byte) : Except DecodeError Unit :=
  match fmt with
  | .s =>
    if p.length < 5 then .error .badPayloadLength
    else if p.getLast? ≠ some 0x00 then .error .missingNul
    else if (0x00 : Byte) ∈ (p.drop 4).dropLast then .error .innerNul
    else .ok ()
  | fmt => if p.length = Machine.payloadLength 0 fmt then .ok () else .error .badPayloadLength

/-- `Decode(f)` (R75): the kind and the payload of a frame. -/
def decodeFrame (m : OpcodeMap) (f : List Byte) : Except DecodeError (Kind × List Byte) :=
  match f with
  | marker :: lenHi :: lenLo :: op :: rest =>
    if f.length < 9 then .error .tooShort
    else if marker ≠ 0xA5 then .error .badMarker
    else if lenHi.toNat * 256 + lenLo.toNat ≠ f.length then .error .badLength
    else if (rest.drop (f.length - 9)).take 4 ≠ trailer then .error .badTrailer
    else if rest.getLast? ≠ some (Machine.xorAll f.dropLast) then .error .badChecksum
    else match m.kindOf op with
      | none => .error .unknownOpcode
      | some k =>
        match checkPayload (Machine.formatOf k) (rest.take (f.length - 9)) with
        | .error e => .error e
        | .ok _ => .ok (k, rest.take (f.length - 9))
  | _ => .error .tooShort

/-- A coordinate read back from its two bytes, as the signed 16-bit value. DESIGN CHOICE (log 12): the frame does not
say whether a caller meant -1 or 65535 (C1). -/
def coordOf (h l : Byte) : Int := (h ++ l : BitVec 16).toInt

/-- A payload of format N read back. -/
def readN (i : Instr) : List Byte → Option Instr
  | [] => some i
  | _ => none

/-- A payload of format B1 read back. -/
def readB1 (f : Int → Instr) : List Byte → Option Instr
  | [v] => some (f v.toNat)
  | _ => none

/-- A payload of format B2 read back. -/
def readB2 (f : Int → Int → Instr) : List Byte → Option Instr
  | [v, w] => some (f v.toNat w.toNat)
  | _ => none

/-- A payload of format W32 read back. -/
def readW32 (f : Int → Instr) : List Byte → Option Instr
  | [a, b, c, d] => some (f (a ++ b ++ c ++ d : BitVec 32).toNat)
  | _ => none

/-- The 16-bit fields of a payload of formats C2, C3, C4, C6. -/
def coordsOf : List Byte → Option (List Int)
  | [] => some []
  | [_] => none
  | a :: b :: p => (coordsOf p).map (coordOf a b :: ·)

/-- A payload of format C2 read back. -/
def readC2 (f : Int → Int → Instr) (p : List Byte) : Option Instr :=
  match coordsOf p with
  | some [x, y] => some (f x y)
  | _ => none

/-- A payload of format C3 read back. -/
def readC3 (f : Int → Int → Int → Instr) (p : List Byte) : Option Instr :=
  match coordsOf p with
  | some [x, y, r] => some (f x y r)
  | _ => none

/-- A payload of format C4 read back. -/
def readC4 (f : Int → Int → Int → Int → Instr) (p : List Byte) : Option Instr :=
  match coordsOf p with
  | some [x0, y0, x1, y1] => some (f x0 y0 x1 y1)
  | _ => none

/-- A payload of format C6 read back. -/
def readC6 (f : Int → Int → Int → Int → Int → Int → Instr) (p : List Byte) : Option Instr :=
  match coordsOf p with
  | some [x0, y0, x1, y1, x2, y2] => some (f x0 y0 x1 y1 x2 y2)
  | _ => none

/-- A payload of format S read back: the text is what stands between the coordinates and the last byte. -/
def readS (f : List Byte → Int → Int → Instr) : List Byte → Option Instr
  | a :: b :: c :: d :: t => some (f t.dropLast (coordOf a b) (coordOf c d))
  | _ => none

/-- The command of a kind whose payload is given (R71 read backwards, R76). -/
def instrOf : Kind → List Byte → Option Instr
  | .handshake => readN .handshake
  | .setBaud => readW32 .setBaud
  | .readBaud => readN .readBaud
  | .memoryMode => readB1 .memoryMode
  | .stopMode => readN .stopMode
  | .update => readN .update
  | .screenRotation => readB1 .screenRotation
  | .loadFont => readN .loadFont
  | .loadPicture => readN .loadPicture
  | .setColor => readB2 .setColor
  | .setEnFont => readB1 .setEnFont
  | .setChFont => readB1 .setChFont
  | .drawPixel => readC2 .drawPixel
  | .drawLine => readC4 .drawLine
  | .fillRect => readC4 .fillRect
  | .drawCircle => readC3 .drawCircle
  | .fillCircle => readC3 .fillCircle
  | .drawTriangle => readC6 .drawTriangle
  | .fillTriangle => readC6 .fillTriangle
  | .clear => readN .clear
  | .drawString => readS .drawString
  | .drawBitmap => readS .drawBitmap

/-- The command a frame stands for, total on any bytes and rejecting by name (R75, R79). -/
def decode (m : OpcodeMap) (f : List Byte) : Except DecodeError Instr :=
  match decodeFrame m f with
  | .error e => .error e
  | .ok (k, p) =>
    match instrOf k p with
    | some i => .ok i
    | none => .error .badPayloadLength

/-! ### Encoding (R60 to R72, R102) -/

/-- `payload(c)` (R103): the payload each command rule gives (R110 to R118, R130 to R132, R140 to R147, R160, R161). -/
def payload : Instr → List Byte
  | .handshake => Machine.payloadN
  | .setBaud baud => Machine.payloadW32 baud
  | .readBaud => Machine.payloadN
  | .memoryMode mode => Machine.payloadB1 mode
  | .stopMode => Machine.payloadN
  | .update => Machine.payloadN
  | .screenRotation rot => Machine.payloadB1 rot
  | .loadFont => Machine.payloadN
  | .loadPicture => Machine.payloadN
  | .setColor fg bg => Machine.payloadB2 fg bg
  | .setEnFont font => Machine.payloadB1 font
  | .setChFont font => Machine.payloadB1 font
  | .drawPixel x y => Machine.payloadC [x, y]
  | .drawLine x0 y0 x1 y1 => Machine.payloadC [x0, y0, x1, y1]
  | .fillRect x0 y0 x1 y1 => Machine.payloadC [x0, y0, x1, y1]
  | .drawCircle x0 y0 r => Machine.payloadC [x0, y0, r]
  | .fillCircle x0 y0 r => Machine.payloadC [x0, y0, r]
  | .drawTriangle x0 y0 x1 y1 x2 y2 => Machine.payloadC [x0, y0, x1, y1, x2, y2]
  | .fillTriangle x0 y0 x1 y1 x2 y2 => Machine.payloadC [x0, y0, x1, y1, x2, y2]
  | .clear => Machine.payloadN
  | .drawString text x0 y0 => Machine.payloadS text x0 y0
  | .drawBitmap path x0 y0 => Machine.payloadS path x0 y0

/-- The total frame length for a payload of P bytes: `n = 4 + P + 5` (R61). -/
def frameLength (P : Nat) : Nat := 4 + P + 5

/-- Bytes 0 to n-2 of the frame (R102): marker, length field, opcode, payload, trailer. -/
def frameBody (op : Byte) (p : List Byte) : List Byte :=
  let n := BitVec.ofNat 16 (frameLength p.length)
  [0xA5, Machine.hiByte n, Machine.loByte n, op] ++ p ++ trailer

/-- The whole frame of an opcode and a payload (R60). -/
def frameOf (op : Byte) (p : List Byte) : List Byte :=
  frameBody op p ++ [Machine.xorAll (frameBody op p)]

/-- `Encode(c)` (R102). R102 defines it only where n <= MAX_FRAME; here it is total, and a text too long for the 16-bit
length field gives a byte sequence with that field n mod 2^16, which is no frame. DESIGN CHOICE (log 23): Execute
never builds such a sequence (R93). -/
def encode (m : OpcodeMap) (i : Instr) : List Byte := frameOf (m.opcode i.kind) (payload i)

/-- The command as its frame shows it: each coordinate keeps only its low 16 bits (R71), read as signed (log 12). -/
def Instr.onWire : Instr → Instr
  | .handshake => .handshake
  | .setBaud baud => .setBaud baud
  | .readBaud => .readBaud
  | .memoryMode mode => .memoryMode mode
  | .stopMode => .stopMode
  | .update => .update
  | .screenRotation rot => .screenRotation rot
  | .loadFont => .loadFont
  | .loadPicture => .loadPicture
  | .setColor fg bg => .setColor fg bg
  | .setEnFont font => .setEnFont font
  | .setChFont font => .setChFont font
  | .drawPixel x y => .drawPixel (Machine.u16 x).toInt (Machine.u16 y).toInt
  | .drawLine x0 y0 x1 y1 =>
    .drawLine (Machine.u16 x0).toInt (Machine.u16 y0).toInt (Machine.u16 x1).toInt (Machine.u16 y1).toInt
  | .fillRect x0 y0 x1 y1 =>
    .fillRect (Machine.u16 x0).toInt (Machine.u16 y0).toInt (Machine.u16 x1).toInt (Machine.u16 y1).toInt
  | .drawCircle x0 y0 r => .drawCircle (Machine.u16 x0).toInt (Machine.u16 y0).toInt (Machine.u16 r).toInt
  | .fillCircle x0 y0 r => .fillCircle (Machine.u16 x0).toInt (Machine.u16 y0).toInt (Machine.u16 r).toInt
  | .drawTriangle x0 y0 x1 y1 x2 y2 =>
    .drawTriangle (Machine.u16 x0).toInt (Machine.u16 y0).toInt (Machine.u16 x1).toInt (Machine.u16 y1).toInt
      (Machine.u16 x2).toInt (Machine.u16 y2).toInt
  | .fillTriangle x0 y0 x1 y1 x2 y2 =>
    .fillTriangle (Machine.u16 x0).toInt (Machine.u16 y0).toInt (Machine.u16 x1).toInt (Machine.u16 y1).toInt
      (Machine.u16 x2).toInt (Machine.u16 y2).toInt
  | .clear => .clear
  | .drawString text x0 y0 => .drawString text (Machine.u16 x0).toInt (Machine.u16 y0).toInt
  | .drawBitmap path x0 y0 => .drawBitmap path (Machine.u16 x0).toInt (Machine.u16 y0).toInt

/-! ### The opcode table's numbering -/

/-- Byte j of a table word, bit 0 of the word being bit 0 of byte 0. -/
def tableByte (w j : Nat) : Byte := BitVec.ofNat 8 (w >>> (8 * j))

/-- The payload a table word gives: the bytes after its opcode byte, filled with zero bytes up to the format's length
(for format S: an ending NUL, and at least one). -/
def tablePayload (fmt : Format) (nbits w : Nat) : List Byte :=
  let given := (List.range (nbits / 8 - 1)).map fun j => tableByte w (j + 1)
  match fmt with
  | .s =>
    let p := given ++ List.replicate (5 - given.length) 0x00
    if p.getLast? = some 0x00 then p else p ++ [0x00]
  | fmt => given ++ List.replicate (Machine.payloadLength 0 fmt - given.length) 0x00

/-- The command the decoder reads from a row's word. The table's match and mask apply to frame byte 3, so bit 0 of w is
bit 0 of that byte, and later bytes are the payload's; the marker, length field, trailer and checksum around them are
those of R60. Log 13. -/
def decodeTableWord (nbits w : Nat) : Option Instr :=
  let v := w % 2 ^ nbits
  let op := tableByte v 0
  match OpcodeMap.table.kindOf op with
  | none => none
  | some k =>
    match decode OpcodeMap.table (frameOf op (tablePayload (Machine.formatOf k) nbits v)) with
    | .ok i => some i
    | .error _ => none

end Sys2Proof
end

