-- ==== Sys2Proof/Machine/Line.lean ====
section
/-! DEFINITION. The serial line: the constants of LINECFG (10_state.md R30), and how the bytes of `txlog` appear on
the line (45_uart_transport.md R183 to R185). The line is a function of `txlog` and of the gaps between characters;
it is not part of the state, and when a bit leaves the pin is not modelled (R38, R240). -/

namespace Sys2Proof.Machine

/-- LINECFG (R30): "Every field is a constant of this hardware". BAUD, RAW, HUPCL, FLOWCTL are the source's;
DATABITS, PARITY, STOPBITS and BITORDER are the spec's D15 (log 17). -/
def lineCfgFixed : LineCfg where
  baud := 115200
  raw := true
  hupcl := true
  flowCtl := false
  dataBits := 8
  parity := .none
  stopBits := 1
  bitOrder := .lsbFirst

/-- The bits of a byte in the order the line sends them (R42, R183): bit 0 first. -/
def dataBits : BitOrder → Byte → List Bool
  | .lsbFirst, b =>
    [b.getLsbD 0, b.getLsbD 1, b.getLsbD 2, b.getLsbD 3, b.getLsbD 4, b.getLsbD 5, b.getLsbD 6, b.getLsbD 7]

/-- The parity bits of a character: "There is no parity bit" (R183). -/
def parityBits : Parity → List Bool
  | .none => []

/-- One character: a start bit (0), the data bits, no parity bit, the stop bit (1) (R183). -/
def charBits (c : LineCfg) (b : Byte) : List Bool :=
  false :: (dataBits c.bitOrder b).take c.dataBits ++ parityBits c.parity ++ List.replicate c.stopBits true

/-- The line while a byte sequence is shifted out in order (R183): before each character the line idles at 1 for a
gap; a gap not listed is zero. Gaps count whole bit times: DESIGN CHOICE (log 17). -/
def lineWave (c : LineCfg) : List Nat → List Byte → List Bool
  | _, [] => []
  | [], b :: bs => charBits c b ++ lineWave c [] bs
  | g :: gs, b :: bs => List.replicate g true ++ charBits c b ++ lineWave c gs bs

/-- A byte from eight data bits, least significant first. -/
def byteFromBits (b0 b1 b2 b3 b4 b5 b6 b7 : Bool) : Byte :=
  BitVec.ofBool b7 ++ BitVec.ofBool b6 ++ BitVec.ofBool b5 ++ BitVec.ofBool b4 ++
    BitVec.ofBool b3 ++ BitVec.ofBool b2 ++ BitVec.ofBool b1 ++ BitVec.ofBool b0

/-- A receiver of R183's characters, for statements about the line only (the block has no receive path, R182): it
skips idle 1s, and reads a start bit, eight data bits and a stop bit. -/
def lineRead : List Bool → Option (List Byte)
  | [] => some []
  | true :: w => lineRead w
  | false :: b0 :: b1 :: b2 :: b3 :: b4 :: b5 :: b6 :: b7 :: true :: w =>
    (lineRead w).map (byteFromBits b0 b1 b2 b3 b4 b5 b6 b7 :: ·)
  | _ => none

end Sys2Proof.Machine
end

