-- ==== Sys2Proof/Machine/State.lean ====
section
/-! DEFINITION. The state (10_state.md R20 to R31), the requests and moves the outside makes (R36, R172, R177, R178,
R230), the ways a step can stop, and the state right after reset (R19). -/

namespace Sys2Proof.Machine

/-- `phase` (R21). "No other value exists." -/
inductive Phase where
  | idle | sending
deriving DecidableEq, Repr

/-- `link` (R28). -/
inductive Link where
  | down | up
deriving DecidableEq, Repr

/-- The status names of R201. Their numbers are `Status.number` in Ops.lean. -/
inductive Status where
  | ok | deviceUnavailable | ioError | shortWrite | payloadTooLarge
deriving DecidableEq, Repr

/-- A response: "a pair (code, subcause)" (R29). The subcauses are 0 to 3 (R201). -/
structure Response where
  code     : Status
  subcause : Fin 4
deriving DecidableEq, Repr

/-- The answers `open(path)` can give (R172). -/
inductive OpenResult where
  | ok | notFound | permissionDenied | ioError
deriving DecidableEq, Repr

/-- The answers `configure(Handle)` can give (R172). -/
inductive ConfigureResult where
  | ok | ioError
deriving DecidableEq, Repr

/-- The results that can end a frame's write (R178). -/
inductive WriteResult where
  | ok | shortWrite | ioError
deriving DecidableEq, Repr

/-- What the host offers on the command port: "either a Command or one of the link operations" (R36). -/
inductive Request where
  | command (i : Instr)
  | linkUp
  | close
deriving DecidableEq, Repr

/-- One move of the outside world. Which moves come, and in what order, is the environment's choice (R177, R178, R172,
R230); a move that its rule does not allow in a state changes nothing there (log 7). -/
inductive Move where
  /-- The command port's turn: it takes the oldest request, if it is ready (R36). -/
  | takeRequest
  /-- The transport takes the next byte (R177). -/
  | acceptByte
  /-- The transport ends the write (R178). -/
  | endWrite (r : WriteResult)
  /-- The transport answers open (R172). -/
  | answerOpen (r : OpenResult)
  /-- The transport answers configure (R172). -/
  | answerConfigure (r : ConfigureResult)
  /-- The reset input is asserted (R230). -/
  | assertReset
deriving DecidableEq, Repr

/-- Where a link-up stands: R172 draws the answer of open, then that of configure, and R231 speaks of a reset during
it. DEDUCED (log 10). -/
inductive LinkStage where
  | notRunning | opening | configuring
deriving DecidableEq, Repr

/-- The frame buffer's bytes: (index, byte) pairs, indices strictly rising. An index with no pair has no value: nothing
has written it since power-on or reset (R22, log 2). -/
abbrev Memory := List Host.Cell

/-- The block's state: the elements of R20 under their own names, the parameters of R7, and the model's own fields
(INVENTORY.md, State). -/
structure State where
  /-- R21. -/
  phase   : Phase
  /-- R22. -/
  buf     : Memory
  /-- R23. -/
  wp      : Nat
  /-- R24. -/
  chk     : Byte
  /-- R25. -/
  flen    : BitVec 16
  /-- R26. -/
  txi     : Nat
  /-- R31. -/
  cur     : Option Instr
  /-- R27, the first byte ever accepted first. -/
  txlog   : List Byte
  /-- R28. -/
  link    : Link
  /-- R29. -/
  rsp     : Option Response
  /-- LINECFG, R30. -/
  lineCfg : LineCfg
  /-- The parameters MAX_FRAME and OPCODE_MAP (R7, log 4). -/
  cfg     : Config
  /-- The link operation in progress (R172, R231, log 10). -/
  linkStage : LinkStage
  /-- The requests the host offers, oldest first; it waits while the port is not ready (R36, R234, log 6). -/
  reqs    : List Request
  /-- The outside's coming moves, next first; none left: nothing happens any more (R215, log 6). -/
  env     : List Move
  /-- How many resets have happened; it numbers the free values a reset leaves (log 3). -/
  resets  : Nat
deriving DecidableEq, Repr

/-- The reasons the model itself stops. The hardware has none: every error is a response (R211). Safe: the spec says
neither can arise, and an obligation says that no good state reaches one. -/
inductive Fault where
  /-- `Append` or `AppendRaw` would write at or beyond MAX_FRAME, where no buffer byte exists (R22). "A byte beyond
  MAX_FRAME: cannot occur" (R211). Raised by State.storeByte; safe (log 15). -/
  | bufferOverrun (index : Nat)
  /-- The transport would read a buffer byte nothing has written: "A model that reads one should fault" (U7). Raised
  by transportAccept; safe (log 2). -/
  | unwrittenByte (index : Nat)
deriving DecidableEq, Repr

/-- The reasons a step has no meaning. -/
inductive Refusal where
  /-- An instruction that has no meaning in the model yet; raised by exec's arm alone. Safe. No arm raises it. -/
  | notModelled (mnemonic : String)
deriving DecidableEq, Repr

/-- The state right after reset, at power-on (R19, R230; the vectors' S0). `wp`, `chk`, `flen` and `txi` are
unspecified in the spec and 0 here: DESIGN CHOICE (log 1), unsafe. The parameters are the spec's reference values:
PRESUMED (log 4, log 5), unsafe. No request is offered and no move is coming (log 6). -/
def State.reset : State where
  phase := .idle
  buf := []
  wp := 0
  chk := 0x00
  flen := 0
  txi := 0
  cur := none
  txlog := []
  link := .down
  rsp := none
  lineCfg := lineCfgFixed
  cfg := Config.reference
  linkStage := .notRunning
  reqs := []
  env := []
  resets := 0

end Sys2Proof.Machine
end

