-- ==== Sys2Proof/Machine/Ops.lean ====
section
/-! DEFINITION. The named operations: the frame buffer's bytes, the response (60_exceptions.md R200, R208, R209), the
buffer primitives (40_codec.md R91), and `Execute` (R90), which every command runs. -/

namespace Sys2Proof.Machine

/-! ### The frame buffer's bytes (R22) -/

/-- Reading one byte; none where nothing has written it. -/
def Memory.get : Memory → Nat → Option Byte
  | [], _ => none
  | (a, b) :: m, i => if a = i then some b else Memory.get m i

/-- Writing one byte. Keeps the indices strictly rising. -/
def Memory.set : Memory → Nat → Byte → Memory
  | [], i, v => [(i, v)]
  | (a, b) :: m, i, v =>
    if i < a then (i, v) :: (a, b) :: m
    else if i = a then (i, v) :: m
    else (a, b) :: Memory.set m i v

/-- Writing a byte sequence at consecutive indices. -/
def Memory.setAll (m : Memory) (i : Nat) : List Byte → Memory
  | [] => m
  | b :: bs => Memory.setAll (m.set i b) (i + 1) bs

/-- Every index of a memory lies at or above `lo`, and the indices rise strictly. -/
def Memory.risesFrom (lo : Nat) : Memory → Bool
  | [] => true
  | (a, _) :: m => decide (lo ≤ a) && Memory.risesFrom (a + 1) m

/-- The canonical form: indices strictly rising. An unlisted index has no value, so no entry can equal it. -/
def Memory.wf (m : Memory) : Bool := Memory.risesFrom 0 m

/-- Every listed index is below a bound: the buffer has bytes 0 to MAX_FRAME-1 only (R22). -/
def Memory.below (bound : Nat) (m : Memory) : Bool := m.all fun c => decide (c.1 < bound)

/-- The bytes at consecutive indices, as far as they are written: `s[i..j)` of R9 with j = i + len. -/
def Memory.slice (m : Memory) (i : Nat) : Nat → List (Option Byte)
  | 0 => []
  | len + 1 => m.get i :: Memory.slice m (i + 1) len

/-! ### Sequencing of steps that may stop -/

/-- Goes on with the next state, or stops as the first part stopped. -/
def andThen (o : Host.Outcome State Fault Refusal) (f : State → Host.Outcome State Fault Refusal) :
    Host.Outcome State Fault Refusal :=
  match o with
  | .next s => f s
  | .fault r => .fault r
  | .refused r => .refused r

/-! ### Responses and errors (R200, R201, R208, R209) -/

/-- The numbers of the status codes (R201). -/
def Status.number : Status → Nat
  | .ok => 0
  | .deviceUnavailable => 1
  | .ioError => 2
  | .shortWrite => 3
  | .payloadTooLarge => 4

/-- `respond(code, sub)`: `rsp <- (code, sub); cur <- None; phase <- Idle` (R200). The return from an error is the same
assignment: the block is Idle and takes the next request, and nothing needs clearing (R209). -/
def State.respond (code : Status) (sub : Fin 4) (s : State) : State :=
  { s with rsp := some ⟨code, sub⟩, cur := none, phase := .idle }

/-- Taking an error, `raise E(info)` (R10): "An error response is respond(code, sub) (rule R200) and nothing else"
(R208). No address is saved and control goes nowhere. -/
def State.raiseError (code : Status) (sub : Fin 4) (s : State) : State := s.respond code sub

/-! ### The command port (R36) -/

/-- "The port accepts a request only when phase = Idle and cur = None" (R36), and not during a link-up (R200, log 10). -/
def State.portReady (s : State) : Bool :=
  decide (s.phase = .idle) && s.cur.isNone && decide (s.linkStage = .notRunning)

/-! ### The buffer primitives (R91) -/

/-- `buf[wp] <- b; wp <- wp + 1`, where the buffer has that byte. -/
def State.storeByte (b : Byte) (s : State) : Host.Outcome State Fault Refusal :=
  if s.wp < s.cfg.maxFrame then .next { s with buf := s.buf.set s.wp b, wp := s.wp + 1 }
  else .fault (.bufferOverrun s.wp)

/-- `AppendRaw(b)` (R91). -/
def State.appendRaw (b : Byte) (s : State) : Host.Outcome State Fault Refusal := s.storeByte b

/-- `Append(b)` (R91): also folds b into the checksum. -/
def State.append (b : Byte) (s : State) : Host.Outcome State Fault Refusal :=
  andThen (s.storeByte b) fun t => .next { t with chk := chkFold t.chk b }

/-- One `Append` per byte, in order (R95). -/
def State.appendAll : List Byte → State → Host.Outcome State Fault Refusal
  | [], s => .next s
  | b :: bs, s => andThen (s.append b) (State.appendAll bs)

/-! ### Execute (R90, R92 to R96) -/

/-- The length step and the start of the build: `flen <- n; wp <- 0; chk <- 0x00` (R92, R94). -/
def State.startBuild (n : Nat) (s : State) : State :=
  { s with flen := BitVec.ofNat 16 n, wp := 0, chk := 0x00 }

/-- The hand-off: `phase <- Sending; txi <- 0` (R96). -/
def State.handOff (s : State) : State := { s with phase := .sending, txi := 0 }

/-- Header, payload, trailer and checksum of a frame of n bytes (R94, R95), then the hand-off (R96). -/
def State.buildFrame (op : Byte) (p : List Byte) (n : Nat) (s : State) : Host.Outcome State Fault Refusal :=
  andThen ((s.startBuild n).appendAll [0xA5, hiByte (BitVec.ofNat 16 n), loByte (BitVec.ofNat 16 n), op]) fun s1 =>
  andThen (s1.appendAll p) fun s2 =>
  andThen (s2.appendAll trailer) fun s3 =>
  andThen (s3.appendRaw s3.chk) fun s4 => .next s4.handOff

/-- `Execute(c)` (R90) of a command with its payload, in the order of R207: the link check (R202), the length (R92),
the capacity check (R93, R205), the build. The build is one step of the model (R21, log 18). -/
def execute (i : Instr) (p : List Byte) (s : State) : Host.Outcome State Fault Refusal :=
  let s := { s with cur := some i }
  if s.link ≠ .up then .next (s.raiseError .deviceUnavailable 0)
  else
    let n := frameLength p.length
    if s.cfg.maxFrame < n then .next (s.raiseError .payloadTooLarge 0)
    else s.buildFrame (s.cfg.opcodes.opcode i.kind) p n

/-- A command offered to the port: the host waits while the port is not ready, and nothing changes (R36, log 9); an
ill-formed command is refused there and leaves no trace (R78, log 8); any other is executed. -/
def runCommand (i : Instr) (p : List Byte) (s : State) : Host.Outcome State Fault Refusal :=
  if s.portReady && i.wellFormed then execute i p s else .next s

/-! ### What statements and later definitions read -/

/-- `buf[0..flen)` (R104): the bytes of the frame, as far as they are written. -/
def State.frameBytes (s : State) : List (Option Byte) := s.buf.slice 0 s.flen.toNat

/-- The state in which the frame f of command i is built and handed off (R95, R96): what Execute leaves when it
succeeds, as one assignment. Statements use it; Execute itself is the step sequence above. -/
def State.handedOff (i : Instr) (f : List Byte) (s : State) : State :=
  { s with
    cur := some i
    flen := BitVec.ofNat 16 f.length
    wp := f.length
    chk := xorAll f.dropLast
    buf := s.buf.setAll 0 f
    phase := .sending
    txi := 0 }

end Sys2Proof.Machine
end

