-- ==== Sys2Proof/Machine/Draw.lean ====
section
/-! DEFINITION. Primitive drawing commands and clear (43_draw_commands.md R140 to R147). The coordinates go out in
operand order, unsorted, unclipped, modulo 2^16. -/

namespace Sys2Proof.Machine

/-- draw-pixel (R140). -/
def execDrawPixel (x y : Int) (s : State) : Host.Outcome State Fault Refusal :=
  runCommand (.drawPixel x y) (payloadC [x, y]) s

/-- draw-line (R141). -/
def execDrawLine (x0 y0 x1 y1 : Int) (s : State) : Host.Outcome State Fault Refusal :=
  runCommand (.drawLine x0 y0 x1 y1) (payloadC [x0, y0, x1, y1]) s

/-- fill-rect (R142). -/
def execFillRect (x0 y0 x1 y1 : Int) (s : State) : Host.Outcome State Fault Refusal :=
  runCommand (.fillRect x0 y0 x1 y1) (payloadC [x0, y0, x1, y1]) s

/-- draw-circle (R143). -/
def execDrawCircle (x0 y0 r : Int) (s : State) : Host.Outcome State Fault Refusal :=
  runCommand (.drawCircle x0 y0 r) (payloadC [x0, y0, r]) s

/-- fill-circle (R144). -/
def execFillCircle (x0 y0 r : Int) (s : State) : Host.Outcome State Fault Refusal :=
  runCommand (.fillCircle x0 y0 r) (payloadC [x0, y0, r]) s

/-- draw-triangle (R145). -/
def execDrawTriangle (x0 y0 x1 y1 x2 y2 : Int) (s : State) : Host.Outcome State Fault Refusal :=
  runCommand (.drawTriangle x0 y0 x1 y1 x2 y2) (payloadC [x0, y0, x1, y1, x2, y2]) s

/-- fill-triangle (R146). -/
def execFillTriangle (x0 y0 x1 y1 x2 y2 : Int) (s : State) : Host.Outcome State Fault Refusal :=
  runCommand (.fillTriangle x0 y0 x1 y1 x2 y2) (payloadC [x0, y0, x1, y1, x2, y2]) s

/-- clear (R147). -/
def execClear (s : State) : Host.Outcome State Fault Refusal :=
  runCommand .clear payloadN s

end Sys2Proof.Machine
end

