-- ==== Sys2Proof/Machine/Style.lean ====
section
/-! DEFINITION. Colour and font selection commands (42_style_commands.md R130 to R132). -/

namespace Sys2Proof.Machine

/-- set-color (R130): the foreground byte comes first. -/
def execSetColor (fg bg : Int) (s : State) : Host.Outcome State Fault Refusal :=
  runCommand (.setColor fg bg) (payloadB2 fg bg) s

/-- set-english-font, also written set-en-font (R131, C9). -/
def execSetEnFont (font : Int) (s : State) : Host.Outcome State Fault Refusal :=
  runCommand (.setEnFont font) (payloadB1 font) s

/-- set-chinese-font, also written set-ch-font (R132, C9). -/
def execSetChFont (font : Int) (s : State) : Host.Outcome State Fault Refusal :=
  runCommand (.setChFont font) (payloadB1 font) s

end Sys2Proof.Machine
end

