-- ==== Sys2Proof/Machine/System.lean ====
section
/-! DEFINITION. Link, mode and update commands (41_system_commands.md R110 to R118). Each runs Execute (40_codec.md R90)
with the payload its rule gives. -/

namespace Sys2Proof.Machine

/-- handshake (R110). -/
def execHandshake (s : State) : Host.Outcome State Fault Refusal :=
  runCommand .handshake payloadN s

/-- set-baud (R111): the block's own rate does not change. -/
def execSetBaud (baud : Int) (s : State) : Host.Outcome State Fault Refusal :=
  runCommand (.setBaud baud) (payloadW32 baud) s

/-- read-baud (R112): send-only. -/
def execReadBaud (s : State) : Host.Outcome State Fault Refusal :=
  runCommand .readBaud payloadN s

/-- memory-mode (R113). -/
def execMemoryMode (mode : Int) (s : State) : Host.Outcome State Fault Refusal :=
  runCommand (.memoryMode mode) (payloadB1 mode) s

/-- stop-mode (R114): the block itself has no stop state (R214). -/
def execStopMode (s : State) : Host.Outcome State Fault Refusal :=
  runCommand .stopMode payloadN s

/-- update (R115). -/
def execUpdate (s : State) : Host.Outcome State Fault Refusal :=
  runCommand .update payloadN s

/-- screen-rotation (R116). -/
def execScreenRotation (rot : Int) (s : State) : Host.Outcome State Fault Refusal :=
  runCommand (.screenRotation rot) (payloadB1 rot) s

/-- load-font (R117). -/
def execLoadFont (s : State) : Host.Outcome State Fault Refusal :=
  runCommand .loadFont payloadN s

/-- load-picture (R118). -/
def execLoadPicture (s : State) : Host.Outcome State Fault Refusal :=
  runCommand .loadPicture payloadN s

end Sys2Proof.Machine
end

