-- ==== Sys2Proof/Machine/Text.lean ====
section
/-! DEFINITION. Text and bitmap commands (44_text_bitmap_commands.md R160 to R162), the only ones whose frame can exceed
MAX_FRAME. -/

namespace Sys2Proof.Machine

/-- draw-string (R160): the operand order is text first, the payload order coordinates first. -/
def execDrawString (text : List Byte) (x0 y0 : Int) (s : State) : Host.Outcome State Fault Refusal :=
  runCommand (.drawString text x0 y0) (payloadS text x0 y0) s

/-- draw-bitmap (R161): the bytes of the path are sent; the block never opens the bitmap it names. -/
def execDrawBitmap (path : List Byte) (x0 y0 : Int) (s : State) : Host.Outcome State Fault Refusal :=
  runCommand (.drawBitmap path x0 y0) (payloadS path x0 y0) s

end Sys2Proof.Machine
end

