-- ==== Sys2Proof/Machine/Dispatch.lean ====
section
/-! DEFINITION. One arm per command of 30_encoding.md R76: the meaning of a command offered to the port. -/

namespace Sys2Proof.Machine

def exec (i : Instr) (s : State) : Host.Outcome State Fault Refusal :=
  match i with
  | .handshake => Sys2Proof.Machine.execHandshake s
  | .setBaud baud => Sys2Proof.Machine.execSetBaud baud s
  | .readBaud => Sys2Proof.Machine.execReadBaud s
  | .memoryMode mode => Sys2Proof.Machine.execMemoryMode mode s
  | .stopMode => Sys2Proof.Machine.execStopMode s
  | .update => Sys2Proof.Machine.execUpdate s
  | .screenRotation rot => Sys2Proof.Machine.execScreenRotation rot s
  | .loadFont => Sys2Proof.Machine.execLoadFont s
  | .loadPicture => Sys2Proof.Machine.execLoadPicture s
  | .setColor fg bg => Sys2Proof.Machine.execSetColor fg bg s
  | .setEnFont font => Sys2Proof.Machine.execSetEnFont font s
  | .setChFont font => Sys2Proof.Machine.execSetChFont font s
  | .drawPixel x y => Sys2Proof.Machine.execDrawPixel x y s
  | .drawLine x0 y0 x1 y1 => Sys2Proof.Machine.execDrawLine x0 y0 x1 y1 s
  | .fillRect x0 y0 x1 y1 => Sys2Proof.Machine.execFillRect x0 y0 x1 y1 s
  | .drawCircle x0 y0 r => Sys2Proof.Machine.execDrawCircle x0 y0 r s
  | .fillCircle x0 y0 r => Sys2Proof.Machine.execFillCircle x0 y0 r s
  | .drawTriangle x0 y0 x1 y1 x2 y2 => Sys2Proof.Machine.execDrawTriangle x0 y0 x1 y1 x2 y2 s
  | .fillTriangle x0 y0 x1 y1 x2 y2 => Sys2Proof.Machine.execFillTriangle x0 y0 x1 y1 x2 y2 s
  | .clear => Sys2Proof.Machine.execClear s
  | .drawString text x0 y0 => Sys2Proof.Machine.execDrawString text x0 y0 s
  | .drawBitmap path x0 y0 => Sys2Proof.Machine.execDrawBitmap path x0 y0 s

end Sys2Proof.Machine
end

