-- ==== Sys2Proof/Machine/LinkOps.lean ====
section
/-! DEFINITION. The link operations (45_uart_transport.md R170 to R174). Link-up waits for the transport's answer to
open and then to configure; each answer is a move of the environment (log 6, log 10). -/

namespace Sys2Proof.Machine

/-- The subcause of a failed open (R172, R201). -/
def OpenResult.subcause : OpenResult → Fin 4
  | .ok => 0
  | .notFound => 1
  | .permissionDenied => 2
  | .ioError => 3

/-- link-up offered to the port (R172): accepted only while the port is ready and the link is Down. While the link is Up
the request is refused there and leaves no trace (log 8); on a port that is not ready it changes nothing (log 9). -/
def execLinkUp (s : State) : Host.Outcome State Fault Refusal :=
  if s.portReady && decide (s.link = .down) then .next { s with linkStage := .opening } else .next s

/-- `apply LINECFG` (R172, R173): the stream is set to the constants of R30. -/
def State.applyLineCfg (s : State) : State := { s with lineCfg := lineCfgFixed }

/-- A link-up that fails: `link <- Down`, DEVICE_UNAVAILABLE with the subcause (R172, R203). -/
def State.failLinkUp (sub : Fin 4) (s : State) : State :=
  { s with linkStage := .notRunning, link := .down }.raiseError .deviceUnavailable sub

/-- The answer to open (R172). -/
def answerOpen (r : OpenResult) (s : State) : Host.Outcome State Fault Refusal :=
  if s.linkStage ≠ .opening then .next s
  else if r = .ok then .next { s with linkStage := .configuring }
  else .next (s.failLinkUp r.subcause)

/-- The answer to configure (R172): on success `link <- Up; respond OK`; an open stream whose configure fails is
treated as not held. -/
def answerConfigure (r : ConfigureResult) (s : State) : Host.Outcome State Fault Refusal :=
  if s.linkStage ≠ .configuring then .next s
  else if r = .ok then .next ({ s.applyLineCfg with linkStage := .notRunning, link := .up }.respond .ok 0)
  else .next (s.failLinkUp 3)

/-- close offered to the port (R174): `link <- Down`, and `respond OK`. On a port that is not ready it changes nothing (log 9). -/
def execClose (s : State) : Host.Outcome State Fault Refusal :=
  if s.portReady then .next ({ s with link := .down }.respond .ok 0) else .next s

end Sys2Proof.Machine
end

