-- ==== Sys2Proof/Machine/Reset.lean ====
section
/-! DEFINITION. The reset input (70_reset_and_hazards.md R230, R231). -/

namespace Sys2Proof.Machine

/-- Reset in any state (R230): `phase = Idle`, `cur = None`, `link = Down`, `rsp = None`; `buf`, `wp`, `chk`, `flen` and
`txi` unspecified; `txlog` unchanged. A write or a link-up in progress is abandoned without a response (R231). The
unspecified registers take free values within their ranges (log 3), and no buffer byte has a value (log 2). The
host's waiting requests and the outside's coming moves are not the block's, and stay (log 22). -/
def State.resetMove (s : State) : State :=
  { s with
    phase := .idle
    cur := none
    link := .down
    rsp := none
    linkStage := .notRunning
    buf := []
    wp := Config.freeWp s.resets % (s.cfg.maxFrame + 1)
    chk := Config.freeChk s.resets
    flen := Config.freeFlen s.resets
    txi := (Config.freeTxi s.resets).toNat
    resets := s.resets + 1 }

end Sys2Proof.Machine
end

