-- ==== Sys2Proof/Machine/Transport.lean ====
section
/-! DEFINITION. The per-frame write (45_uart_transport.md R176 to R181): byte acceptance and the write's one result. -/

namespace Sys2Proof.Machine

/-- Byte acceptance (R177): `txlog <- txlog ++ [buf[txi]]; txi <- txi + 1`, only while `phase = Sending` and
`txi < flen`. "This step is the only writer of txlog." -/
def acceptByte (s : State) : Host.Outcome State Fault Refusal :=
  if s.phase = .sending ∧ s.txi < s.flen.toNat then
    match s.buf.get s.txi with
    | some b => .next { s with txlog := s.txlog ++ [b], txi := s.txi + 1 }
    | none => .fault (.unwrittenByte s.txi)
  else .next s

/-- When a result may end the write (R178). -/
def WriteResult.allowed (r : WriteResult) (s : State) : Bool :=
  match r with
  | .ok => decide (s.txi = s.flen.toNat)
  | .shortWrite => decide (s.txi < s.flen.toNat)
  | .ioError => decide (s.txi ≤ s.flen.toNat)

/-- The status a result gives (R178, R204, R206). -/
def WriteResult.status : WriteResult → Status
  | .ok => .ok
  | .shortWrite => .shortWrite
  | .ioError => .ioError

/-- The write's result (R178): the response, after which the block is Idle. The link stays Up (R181), and the rest of
the frame is never sent (R179). -/
def endWrite (r : WriteResult) (s : State) : Host.Outcome State Fault Refusal :=
  if s.phase = .sending ∧ r.allowed s then .next (s.respond r.status 0) else .next s

end Sys2Proof.Machine
end

