-- ==== Sys2Proof/Machine/Port.lean ====
section
/-! DEFINITION. The command port's turn (10_state.md R36), and what each move of the outside does. -/

namespace Sys2Proof.Machine

/-- The meaning of a request the port takes. -/
def runRequest (r : Request) (s : State) : Host.Outcome State Fault Refusal :=
  match r with
  | .command i => exec i s
  | .linkUp => execLinkUp s
  | .close => execClose s

/-- The port's turn (R36): a ready port takes the oldest request the host offers; otherwise the host waits, and its
request is neither lost nor merged (R234). -/
def takeRequest (s : State) : Host.Outcome State Fault Refusal :=
  match s.reqs with
  | [] => .next s
  | r :: rs => if s.portReady then runRequest r { s with reqs := rs } else .next s

/-- What one move of the outside does. -/
def runMove (m : Move) (s : State) : Host.Outcome State Fault Refusal :=
  match m with
  | .takeRequest => takeRequest s
  | .acceptByte => acceptByte s
  | .endWrite r => endWrite r s
  | .answerOpen r => answerOpen r s
  | .answerConfigure r => answerConfigure r s
  | .assertReset => .next s.resetMove

/-- A command put where the next step takes it: first among the requests, the port ready, and its turn next. -/
def State.offerFirst (i : Instr) (s : State) : State :=
  { s with
    phase := .idle
    cur := none
    linkStage := .notRunning
    reqs := .command i :: s.reqs
    env := .takeRequest :: s.env }

end Sys2Proof.Machine
end

