-- ==== Sys2Proof/Machine/Step.lean ====
section
/-! DEFINITION. One step of the block: the outside's next move (log 6). -/

namespace Sys2Proof.Machine

/-- One step. With no move left nothing happens any more: the transport may never answer, and then the block stays in
Sending for ever (R178, R215). -/
def step (s : State) : Host.Outcome State Fault Refusal :=
  match s.env with
  | [] => .next s
  | m :: ms => runMove m { s with env := ms }

/-- The state in which the next step runs the command of a table word (log 13, log 14). -/
def State.withFetchWord (s : State) (nbits w : Nat) : State :=
  match decodeTableWord nbits w with
  | some i => s.offerFirst i
  | none => s

end Sys2Proof.Machine
end

