-- ==== Sys2Proof/Machine/Assembler.lean ====
section
/-! DEFINITION. The textual form of a request (00_scope.md R11, 30_encoding.md R77): one line of characters to one
request, total, refusing what is no line of the grammar. Spaces around an argument are allowed, as the spec's own
examples have them (log 21). -/

namespace Sys2Proof.Machine

/-- An argument of a line (R77). -/
inductive Arg where
  | int (v : Int)
  | bytes (bs : List Byte)
deriving DecidableEq, Repr

/-- The double quote character. -/
def quoteChar : Char := Char.ofNat 34

/-- The names of R77: 22 commands and two more spellings (C9). -/
def commandNames : List (String × Kind) :=
  [("handshake", .handshake), ("set-baud", .setBaud), ("read-baud", .readBaud), ("memory-mode", .memoryMode),
   ("stop-mode", .stopMode), ("update", .update), ("screen-rotation", .screenRotation), ("load-font", .loadFont),
   ("load-picture", .loadPicture), ("set-color", .setColor)] ++
  [("set-english-font", .setEnFont), ("set-en-font", .setEnFont), ("set-chinese-font", .setChFont),
   ("set-ch-font", .setChFont), ("draw-pixel", .drawPixel), ("draw-line", .drawLine), ("fill-rect", .fillRect),
   ("draw-circle", .drawCircle), ("fill-circle", .fillCircle), ("draw-triangle", .drawTriangle),
   ("fill-triangle", .fillTriangle), ("clear", .clear), ("draw-string", .drawString), ("draw-bitmap", .drawBitmap)]

/-- The kind a name stands for. -/
def kindNamed (name : List Char) : Option Kind :=
  (commandNames.find? fun e => e.1.toList == name).map (·.2)

/-- Without leading and trailing spaces. -/
def trimSpaces (cs : List Char) : List Char :=
  ((cs.dropWhile (· == ' ')).reverse.dropWhile (· == ' ')).reverse

/-- The value of a digit in a base up to 16. -/
def digitValue (base : Nat) (c : Char) : Option Nat :=
  let n := c.toNat
  let v := if 48 ≤ n ∧ n ≤ 57 then some (n - 48)
    else if 65 ≤ n ∧ n ≤ 70 then some (n - 55)
    else if 97 ≤ n ∧ n ≤ 102 then some (n - 87)
    else none
  match v with
  | some d => if d < base then some d else none
  | none => none

/-- Digits after those already read. -/
def digitsFrom (base : Nat) : Nat → List Char → Option Nat
  | acc, [] => some acc
  | acc, c :: cs =>
    match digitValue base c with
    | some d => digitsFrom base (acc * base + d) cs
    | none => none

/-- One or more digits. -/
def number (base : Nat) : List Char → Option Nat
  | [] => none
  | c :: cs => digitsFrom base 0 (c :: cs)

/-- `hexbyte (" " hexbyte)*` (R77). -/
def hexBytes : List Char → Option (List Byte)
  | [h, l] => (number 16 [h, l]).map fun v => [BitVec.ofNat 8 v]
  | h :: l :: ' ' :: cs =>
    match number 16 [h, l], hexBytes cs with
    | some v, some bs => some (BitVec.ofNat 8 v :: bs)
    | _, _ => none
  | _ => none

/-- The list without its last character, if that is c. -/
def closedBy (c : Char) : List Char → Option (List Char)
  | [] => none
  | [d] => if d = c then some [] else none
  | d :: e :: cs => (closedBy c (e :: cs)).map (d :: ·)

/-- The bytes of a string's characters in ASCII, none of them NUL or a double quote (R11, R77). -/
def asciiBytes : List Char → Option (List Byte)
  | [] => some []
  | c :: cs =>
    if c = quoteChar ∨ c.toNat = 0 ∨ 127 < c.toNat then none
    else (asciiBytes cs).map (BitVec.ofNat 8 c.toNat :: ·)

/-- One argument (R77): an integer, a string or a byte list. -/
def parseArg (cs : List Char) : Option Arg :=
  match cs with
  | [] => none
  | '0' :: 'x' :: ds => (number 16 ds).map fun v => .int v
  | c :: ds =>
    if c = '-' then (number 10 ds).map fun v => .int (-(v : Int))
    else if c = quoteChar then ((closedBy quoteChar ds).bind asciiBytes).map .bytes
    else if c = '[' then
      if ds = [']'] then some (.bytes []) else ((closedBy ']' ds).bind hexBytes).map .bytes
    else (number 10 cs).map fun v => .int v

/-- The arguments' texts, cut at the commas outside strings. The first two parameters are whether the scan is inside a
string and the current argument's characters, last first. -/
def splitArgs : Bool → List Char → List Char → List (List Char)
  | _, part, [] => [part.reverse]
  | inStr, part, c :: cs =>
    if c = quoteChar then splitArgs (!inStr) (c :: part) cs
    else if c = ',' ∧ inStr = false then part.reverse :: splitArgs false [] cs
    else splitArgs inStr (c :: part) cs

/-- Every argument, or none if one is no argument. -/
def parseArgs : List (List Char) → Option (List Arg)
  | [] => some []
  | a :: as =>
    match parseArg (trimSpaces a), parseArgs as with
    | some v, some vs => some (v :: vs)
    | _, _ => none

/-- The command of a name and its arguments, "in the order of rule R76" (R77). -/
def commandOf : Kind → List Arg → Option Instr
  | .handshake, [] => some .handshake
  | .setBaud, [.int baud] => some (.setBaud baud)
  | .readBaud, [] => some .readBaud
  | .memoryMode, [.int mode] => some (.memoryMode mode)
  | .stopMode, [] => some .stopMode
  | .update, [] => some .update
  | .screenRotation, [.int rot] => some (.screenRotation rot)
  | .loadFont, [] => some .loadFont
  | .loadPicture, [] => some .loadPicture
  | .setColor, [.int fg, .int bg] => some (.setColor fg bg)
  | .setEnFont, [.int font] => some (.setEnFont font)
  | .setChFont, [.int font] => some (.setChFont font)
  | .drawPixel, [.int x, .int y] => some (.drawPixel x y)
  | .drawLine, [.int x0, .int y0, .int x1, .int y1] => some (.drawLine x0 y0 x1 y1)
  | .fillRect, [.int x0, .int y0, .int x1, .int y1] => some (.fillRect x0 y0 x1 y1)
  | .drawCircle, [.int x0, .int y0, .int r] => some (.drawCircle x0 y0 r)
  | .fillCircle, [.int x0, .int y0, .int r] => some (.fillCircle x0 y0 r)
  | .drawTriangle, [.int x0, .int y0, .int x1, .int y1, .int x2, .int y2] => some (.drawTriangle x0 y0 x1 y1 x2 y2)
  | .fillTriangle, [.int x0, .int y0, .int x1, .int y1, .int x2, .int y2] => some (.fillTriangle x0 y0 x1 y1 x2 y2)
  | .clear, [] => some .clear
  | .drawString, [.bytes text, .int x0, .int y0] => some (.drawString text x0 y0)
  | .drawBitmap, [.bytes path, .int x0, .int y0] => some (.drawBitmap path x0 y0)
  | _, _ => none

/-- `name "(" [arg ("," arg)*] ")"` (R77). -/
def parseCommand (cs : List Char) : Option Instr :=
  let name := cs.takeWhile (· != '(')
  match kindNamed name, cs.dropWhile (· != '(') with
  | some k, _ :: rest =>
    match closedBy ')' rest with
    | some body =>
      if trimSpaces body = [] then commandOf k []
      else (parseArgs (splitArgs false [] body)).bind (commandOf k)
    | none => none
  | _, _ => none

/-- One line: a command, or one of the "two further lines" that drive the link (R77). -/
def parseLine (line : List Char) : Option Request :=
  let cs := trimSpaces line
  if cs = "link-up".toList then some .linkUp
  else if cs = "close".toList then some .close
  else (parseCommand cs).map .command

end Sys2Proof.Machine
end

