-- ==== Sys2Proof/Safety.lean ====
section
/-! DEFINITION. What statements call a good state and a safe run. -/

namespace Sys2Proof.Machine

/-- A frame in flight: command c was accepted when `txlog` was `base`; its frame is in the buffer and the transport has
taken the first `txi` bytes of it (R96, R176, R177). -/
structure InFlight (base : List Byte) (c : Instr) (s : State) : Prop where
  phase_sending : s.phase = .sending
  cur_eq        : s.cur = some c
  wellFormed    : c.wellFormed = true
  link_up       : s.link = .up
  stage         : s.linkStage = .notRunning
  fits          : (encode s.cfg.opcodes c).length ≤ s.cfg.maxFrame
  flen_eq       : s.flen.toNat = (encode s.cfg.opcodes c).length
  wp_eq         : s.wp = (encode s.cfg.opcodes c).length
  chk_eq        : s.chk = xorAll (encode s.cfg.opcodes c).dropLast
  buf_eq        : s.frameBytes = (encode s.cfg.opcodes c).map some
  txi_le        : s.txi ≤ (encode s.cfg.opcodes c).length
  txlog_eq      : s.txlog = base ++ (encode s.cfg.opcodes c).take s.txi

/-- An Idle block: no command in progress; a link-up may be running, and then the link is Down (R31, R172). -/
structure AtRest (s : State) : Prop where
  phase_idle : s.phase = .idle
  cur_none   : s.cur = none
  stage_down : s.linkStage ≠ .notRunning → s.link = .down

/-- The invariant of the block. The parameters meet R7; LINECFG is the constant of R30; the buffer is in canonical form
and has no byte at or beyond MAX_FRAME (R22); `wp` and `txi` stay in their ranges (R20); a response's subcause is 0
unless its code is DEVICE_UNAVAILABLE (R29); and the block is at rest or a frame is in flight (R21). -/
structure Good (s : State) : Prop where
  cfg_ok     : s.cfg.Ok
  lineCfg_eq : s.lineCfg = lineCfgFixed
  buf_wf     : s.buf.wf = true
  buf_below  : s.buf.below s.cfg.maxFrame = true
  wp_le      : s.wp ≤ s.cfg.maxFrame
  txi_le     : s.txi ≤ 65535
  rsp_ok     : ∀ r, s.rsp = some r → r.code ≠ .deviceUnavailable → r.subcause = 0
  mode       : AtRest s ∨ ∃ base c, InFlight base c s

/-- The block can send a command: the port is ready (R36), the link is Up (R28), and the parameters meet R7. -/
structure CanSend (s : State) : Prop where
  ready   : s.portReady = true
  link_up : s.link = .up
  cfg_ok  : s.cfg.Ok

/-- The two spaces and registers a build may touch are as they were (R202, R205: nothing is written or emitted). -/
structure SameDatapath (s t : State) : Prop where
  buf   : t.buf = s.buf
  wp    : t.wp = s.wp
  chk   : t.chk = s.chk
  flen  : t.flen = s.flen
  txi   : t.txi = s.txi
  txlog : t.txlog = s.txlog

/-- Everything a command leaves alone whatever its outcome: the link and its configuration, the output log, the
parameters, and what belongs to the host and the environment (R99, R101, R170, R177). -/
structure CommandFrame (s t : State) : Prop where
  txlog     : t.txlog = s.txlog
  link      : t.link = s.link
  lineCfg   : t.lineCfg = s.lineCfg
  cfg       : t.cfg = s.cfg
  linkStage : t.linkStage = s.linkStage
  reqs      : t.reqs = s.reqs
  env       : t.env = s.env
  resets    : t.resets = s.resets

end Sys2Proof.Machine
end

