-- ==== Sys2Proof/Certificates/Slice0/Obligations.lean ====
section
/-! DEFINITION. The statements for the provers. Each docstring names the rule of spec/ it formalises. Statements about
states hold for every admissible MAX_FRAME and OPCODE_MAP, since the parameters ride in the state (log 4). -/

open Sys2Proof Sys2Proof.Machine

/-! ### Words the statements share -/

/-- The range of a coordinate operand (R78 WF-COORD). -/
def Claims.S32 (v : Int) : Prop := -2147483648 ≤ v ∧ v ≤ 2147483647

/-- The range of a byte operand (R78 WF-BYTE). -/
def Claims.U8 (v : Int) : Prop := 0 ≤ v ∧ v ≤ 255

/-- A frame written out: header, payload, trailer, and the checksum in the second form of R74. -/
def Claims.wire (lenHi lenLo op : Byte) (p : List Byte) : List Byte :=
  [0xA5, lenHi, lenLo, op] ++ p ++ [0xCC, 0x33, 0xC3, 0x3C] ++ [0xA5 ^^^ lenHi ^^^ lenLo ^^^ op ^^^ xorAll p]

/-- The nine bytes of a frame without payload; every such frame has base 0xAC (95_test_vectors.md V10). -/
def Claims.wireN (op : Byte) : List Byte := [0xA5, 0x00, 0x09, op, 0xCC, 0x33, 0xC3, 0x3C, 0xAC ^^^ op]

/-- The last two conditions of Decode (R75) on a payload. -/
def Claims.PayloadOf (k : Kind) (p : List Byte) : Prop :=
  (formatOf k ≠ .s → p.length = payloadLength 0 (formatOf k)) ∧
  (formatOf k = .s → 5 ≤ p.length ∧ p[p.length - 1]? = some 0x00 ∧ (0x00 : Byte) ∉ (p.drop 4).take (p.length - 5))

/-- k steps of the machine (Host.Core.run). -/
def Claims.runs (k : Nat) (s t : State) : Prop := Host.Core.run core k s = .next t

/-! ### Encoding -/

/-- The source's two exact frames, under every admissible map (R140, R147 examples; 95_test_vectors.md L1.1, L1.2). -/
def Obligations.SourceFramesAreExact : Prop :=
  ∀ m : OpcodeMap, m.Ok →
    encode m (.drawPixel 100 200) =
      [0xA5, 0x00, 0x0D, 0x20, 0x00, 0x64, 0x00, 0xC8, 0xCC, 0x33, 0xC3, 0x3C, 0x24] ∧
    encode m .clear = [0xA5, 0x00, 0x09, 0x2E, 0xCC, 0x33, 0xC3, 0x3C, 0x82]

/-- Frames written out byte by byte in 95_test_vectors.md decode to the command they stand for, one or more per family.
The opcode values are those of the default map (log 5). -/
def Obligations.WrittenFramesDecode : Prop :=
  decode OpcodeMap.table [0xA5, 0x00, 0x0D, 0x01, 0x00, 0x01, 0xC2, 0x00, 0xCC, 0x33, 0xC3, 0x3C, 0x6A]
    = .ok (.setBaud 115200) ∧
  decode OpcodeMap.table [0xA5, 0x00, 0x0A, 0x0D, 0xFF, 0xCC, 0x33, 0xC3, 0x3C, 0x5D] = .ok (.screenRotation 255) ∧
  decode OpcodeMap.table [0xA5, 0x00, 0x0B, 0x10, 0x00, 0x03, 0xCC, 0x33, 0xC3, 0x3C, 0xBD] = .ok (.setColor 0 3) ∧
  decode OpcodeMap.table [0xA5, 0x00, 0x0D, 0x20, 0x00, 0x64, 0x00, 0xC8, 0xCC, 0x33, 0xC3, 0x3C, 0x24]
    = .ok (.drawPixel 100 200) ∧
  decode OpcodeMap.table [0xA5, 0x00, 0x10, 0x30, 0x00, 0x0A, 0x00, 0x14, 0x48, 0x69, 0x00, 0xCC, 0x33, 0xC3, 0x3C, 0xBA]
    = .ok (.drawString [0x48, 0x69] 10 20)

/-- Decode and encode agree: the frame of a well-formed command decodes to that command, each coordinate read as the
signed 16-bit value its two bytes hold (log 12); where every coordinate fits 16 signed bits, to exactly that command.
Under every admissible map, and every command whose length the length field can hold. -/
def Obligations.DecodeOfEncodeIsTheCommand : Prop :=
  ∀ (m : OpcodeMap) (i : Instr), m.Ok → i.wellFormed = true → (encode m i).length ≤ 65535 →
    decode m (encode m i) = .ok i.onWire ∧
    ((∀ v ∈ i.coordArgs, -32768 ≤ v ∧ v ≤ 32767) → i.onWire = i)

/-- Encode and decode agree the other way: a frame that decodes is the frame of the command it decodes to, so no two
frames stand for one command. -/
def Obligations.EncodeOfDecodeIsTheFrame : Prop :=
  ∀ (m : OpcodeMap) (f : List Byte) (i : Instr), decode m f = .ok i → encode m i = f

/-- R75: Decode succeeds with (kind, payload) exactly when every listed condition holds; and the round-trip law. -/
def Obligations.DecodeSucceedsExactlyOnFrames : Prop :=
  (∀ (m : OpcodeMap) (f : List Byte) (k : Kind) (p : List Byte),
    decodeFrame m f = .ok (k, p) ↔
      9 ≤ f.length ∧ f[0]? = some 0xA5 ∧
      (∃ h l, f[1]? = some h ∧ f[2]? = some l ∧ h.toNat * 256 + l.toNat = f.length) ∧
      (f.drop (f.length - 5)).take 4 = [0xCC, 0x33, 0xC3, 0x3C] ∧
      f[f.length - 1]? = some (xorAll (f.take (f.length - 1))) ∧
      (∃ op, f[3]? = some op ∧ ∀ k', m.opcode k' = op ↔ k' = k) ∧
      p = (f.drop 4).take (f.length - 9) ∧ Claims.PayloadOf k p) ∧
  (∀ (m : OpcodeMap) (i : Instr), m.Ok → i.wellFormed = true → (encode m i).length ≤ 65535 →
    decodeFrame m (encode m i) = .ok (i.kind, payload i))

/-- R73: the frame length of every command, 14 + L for the two with a text of L bytes. For a text longer than a frame
can hold it speaks of the model's own total encode (log 23). -/
def Obligations.FrameLengthPerCommand : Prop :=
  ∀ (m : OpcodeMap) (i : Instr),
    (i.kind ∈ [Kind.handshake, .readBaud, .stopMode, .update, .loadFont, .loadPicture, .clear] →
      (encode m i).length = 9) ∧
    (i.kind ∈ [Kind.memoryMode, .screenRotation, .setEnFont, .setChFont] → (encode m i).length = 10) ∧
    (i.kind = .setColor → (encode m i).length = 11) ∧
    (i.kind ∈ [Kind.setBaud, .drawPixel] → (encode m i).length = 13) ∧
    (i.kind ∈ [Kind.drawCircle, .fillCircle] → (encode m i).length = 15) ∧
    (i.kind ∈ [Kind.drawLine, .fillRect] → (encode m i).length = 17) ∧
    (i.kind ∈ [Kind.drawTriangle, .fillTriangle] → (encode m i).length = 21) ∧
    (i.kind ∈ [Kind.drawString, .drawBitmap] → (encode m i).length = 14 + i.text.length)

/-- R74: the trailer XORs to zero, the checksum is the XOR of header and payload alone, and the XOR of the whole frame
is 0x00. For a text longer than a frame can hold it speaks of the model's own total encode (log 23). -/
def Obligations.ChecksumIgnoresTheTrailer : Prop :=
  (0xCC : Byte) ^^^ 0x33 = 0xFF ∧ (0xC3 : Byte) ^^^ 0x3C = 0xFF ∧ (0xFF : Byte) ^^^ 0xFF = 0x00 ∧
  ∀ (m : OpcodeMap) (i : Instr),
    (encode m i).getLast? = some (0xA5 ^^^ hiByte (BitVec.ofNat 16 (encode m i).length) ^^^
      loByte (BitVec.ofNat 16 (encode m i).length) ^^^ m.opcode i.kind ^^^ xorAll (payload i)) ∧
    xorAll (encode m i) = 0x00

/-- R71, R9: a coordinate's two bytes are v mod 2^16, high byte first, for every integer; a byte operand is sent
unchanged; a baud value is sent most significant byte first. -/
def Obligations.OperandBytesAreBigEndianResidues : Prop :=
  (∀ v : Int, ((hi v).toNat : Int) * 256 + (lo v).toNat = v % 65536) ∧
  (∀ v : Int, 0 ≤ v → v ≤ 255 → ((byteOf v).toNat : Int) = v) ∧
  (∀ v : Int, 0 ≤ v → v ≤ 4294967295 →
    ∃ a b c d : Byte, payloadW32 v = [a, b, c, d] ∧
      (a.toNat : Int) * 16777216 + b.toNat * 65536 + c.toNat * 256 + d.toNat = v)

/-- Commands whose coordinates agree modulo 2^16 have the same frame (R71: "The same bytes result whether a caller means
v as signed ... or unsigned"). For a text longer
than a frame can hold it speaks of the model's own total encode (log 23). -/
def Obligations.SameWireCommandSameFrame : Prop :=
  ∀ (m : OpcodeMap) (i j : Instr), i.onWire = j.onWire → encode m i = encode m j

/-! ### What a command does when it is sent -/

/-- R64: the seven commands without payload. On a block that can send, exec answers the state in which exactly that
nine-byte frame is in the buffer and handed off; nothing else of the state changes. -/
def Obligations.NoPayloadCommandsSend : Prop :=
  ∀ s : State, CanSend s →
    exec .handshake s = .next (s.handedOff .handshake (Claims.wireN s.cfg.opcodes.handshake)) ∧
    exec .readBaud s = .next (s.handedOff .readBaud (Claims.wireN s.cfg.opcodes.readBaud)) ∧
    exec .stopMode s = .next (s.handedOff .stopMode (Claims.wireN s.cfg.opcodes.stopMode)) ∧
    exec .update s = .next (s.handedOff .update (Claims.wireN s.cfg.opcodes.update)) ∧
    exec .loadFont s = .next (s.handedOff .loadFont (Claims.wireN s.cfg.opcodes.loadFont)) ∧
    exec .loadPicture s = .next (s.handedOff .loadPicture (Claims.wireN s.cfg.opcodes.loadPicture)) ∧
    exec .clear s = .next (s.handedOff .clear (Claims.wireN 0x2E))

/-- R65: the four commands with one byte, sent unchanged, for every byte value (the spec's decision D4). -/
def Obligations.ByteCommandsSend : Prop :=
  ∀ (s : State) (v : Int), CanSend s → 0 ≤ v → v ≤ 255 →
    exec (.memoryMode v) s =
      .next (s.handedOff (.memoryMode v) (Claims.wire 0x00 0x0A s.cfg.opcodes.memoryMode [BitVec.ofInt 8 v])) ∧
    exec (.screenRotation v) s =
      .next (s.handedOff (.screenRotation v) (Claims.wire 0x00 0x0A s.cfg.opcodes.screenRotation [BitVec.ofInt 8 v])) ∧
    exec (.setEnFont v) s =
      .next (s.handedOff (.setEnFont v) (Claims.wire 0x00 0x0A s.cfg.opcodes.setEnFont [BitVec.ofInt 8 v])) ∧
    exec (.setChFont v) s =
      .next (s.handedOff (.setChFont v) (Claims.wire 0x00 0x0A s.cfg.opcodes.setChFont [BitVec.ofInt 8 v]))

/-- R66: set-color sends the foreground byte first, then the background byte, each unchanged (the
spec's decision D4). -/
def Obligations.SetColorSendsForegroundFirst : Prop :=
  ∀ (s : State) (fg bg : Int), CanSend s → 0 ≤ fg → fg ≤ 255 → 0 ≤ bg → bg ≤ 255 →
    exec (.setColor fg bg) s = .next (s.handedOff (.setColor fg bg)
      (Claims.wire 0x00 0x0B s.cfg.opcodes.setColor [BitVec.ofInt 8 fg, BitVec.ofInt 8 bg]))

/-- 30_encoding.md R69, the spec's decision D5 (log 16): set-baud sends the 32-bit value, most significant byte first,
for every value; the block's own line configuration is not changed by it (it is no field the hand-off touches, R111). -/
def Obligations.SetBaudSendsBigEndianWord : Prop :=
  ∀ (s : State) (b : BitVec 32), CanSend s →
    exec (.setBaud b.toNat) s = .next (s.handedOff (.setBaud b.toNat)
      (Claims.wire 0x00 0x0D s.cfg.opcodes.setBaud
        [b.extractLsb' 24 8, b.extractLsb' 16 8, b.extractLsb' 8 8, b.extractLsb' 0 8]))

/-- R67: the seven coordinate commands send their fields in the listed order, each as two bytes, for every s32 value.
draw-pixel's opcode is the source's. -/
def Obligations.CoordinateCommandsSend : Prop :=
  ∀ (s : State) (a b c d e f : Int), CanSend s →
    Claims.S32 a → Claims.S32 b → Claims.S32 c → Claims.S32 d → Claims.S32 e → Claims.S32 f →
    exec (.drawPixel a b) s = .next (s.handedOff (.drawPixel a b)
      (Claims.wire 0x00 0x0D 0x20 [hi a, lo a, hi b, lo b])) ∧
    exec (.drawCircle a b c) s = .next (s.handedOff (.drawCircle a b c)
      (Claims.wire 0x00 0x0F s.cfg.opcodes.drawCircle [hi a, lo a, hi b, lo b, hi c, lo c])) ∧
    exec (.fillCircle a b c) s = .next (s.handedOff (.fillCircle a b c)
      (Claims.wire 0x00 0x0F s.cfg.opcodes.fillCircle [hi a, lo a, hi b, lo b, hi c, lo c])) ∧
    exec (.drawLine a b c d) s = .next (s.handedOff (.drawLine a b c d)
      (Claims.wire 0x00 0x11 s.cfg.opcodes.drawLine [hi a, lo a, hi b, lo b, hi c, lo c, hi d, lo d])) ∧
    exec (.fillRect a b c d) s = .next (s.handedOff (.fillRect a b c d)
      (Claims.wire 0x00 0x11 s.cfg.opcodes.fillRect [hi a, lo a, hi b, lo b, hi c, lo c, hi d, lo d])) ∧
    exec (.drawTriangle a b c d e f) s = .next (s.handedOff (.drawTriangle a b c d e f)
      (Claims.wire 0x00 0x15 s.cfg.opcodes.drawTriangle
        [hi a, lo a, hi b, lo b, hi c, lo c, hi d, lo d, hi e, lo e, hi f, lo f])) ∧
    exec (.fillTriangle a b c d e f) s = .next (s.handedOff (.fillTriangle a b c d e f)
      (Claims.wire 0x00 0x15 s.cfg.opcodes.fillTriangle
        [hi a, lo a, hi b, lo b, hi c, lo c, hi d, lo d, hi e, lo e, hi f, lo f]))

/-- R68: the two text commands send coordinates, the text unchanged, and one NUL, in a frame of 14 + L bytes, for every
text without a 0x00 that fits, the empty text included (the spec's decisions D8, D9). -/
def Obligations.TextCommandsSend : Prop :=
  ∀ (s : State) (text : List Byte) (x0 y0 : Int), CanSend s → (∀ b ∈ text, b ≠ 0x00) → Claims.S32 x0 → Claims.S32 y0 →
    14 + text.length ≤ s.cfg.maxFrame →
    exec (.drawString text x0 y0) s = .next (s.handedOff (.drawString text x0 y0)
      (Claims.wire (BitVec.ofNat 8 ((14 + text.length) / 256)) (BitVec.ofNat 8 ((14 + text.length) % 256))
        s.cfg.opcodes.drawString ([hi x0, lo x0, hi y0, lo y0] ++ text ++ [0x00]))) ∧
    exec (.drawBitmap text x0 y0) s = .next (s.handedOff (.drawBitmap text x0 y0)
      (Claims.wire (BitVec.ofNat 8 ((14 + text.length) / 256)) (BitVec.ofNat 8 ((14 + text.length) % 256))
        s.cfg.opcodes.drawBitmap ([hi x0, lo x0, hi y0, lo y0] ++ text ++ [0x00])))

/-- R102: "the buffer after the build is Encode(c)". The step sequence of R90 (appends, checksum, hand-off) is refined
by the function Encode: for every command and state, what exec answers is given by one equation, with the checks in the
order of R207. -/
def Obligations.ExecuteRefinesEncode : Prop :=
  ∀ (i : Instr) (s : State), s.portReady = true → i.wellFormed = true →
    exec i s = .next (
      if s.link = .down then { s with rsp := some ⟨.deviceUnavailable, 0⟩ }
      else if s.cfg.maxFrame < (encode s.cfg.opcodes i).length then { s with rsp := some ⟨.payloadTooLarge, 0⟩ }
      else s.handedOff i (encode s.cfg.opcodes i))

/-- R104: the five invariants of every frame the block builds, read from its buffer. -/
def Obligations.BuiltFramesMeetTheFrameInvariants : Prop :=
  ∀ (i : Instr) (s : State), CanSend s → i.wellFormed = true → (encode s.cfg.opcodes i).length ≤ s.cfg.maxFrame →
    ∃ t f h l, exec i s = .next t ∧ t.frameBytes = f.map some ∧
      f.length = t.flen.toNat ∧ f[1]? = some h ∧ f[2]? = some l ∧ t.flen.toNat = h.toNat * 256 + l.toNat ∧
      f[t.flen.toNat - 1]? = some (xorAll (f.take (t.flen.toNat - 1))) ∧
      xorAll f = 0x00 ∧
      (f.drop (t.flen.toNat - 5)).take 4 = [0xCC, 0x33, 0xC3, 0x3C] ∧
      (formatOf i.kind = .s → f[t.flen.toNat - 6]? = some 0x00)

/-- R100: within one command the stores go to indices 0 to n-1, each holding the frame's byte after, and no other byte
of the buffer changes. -/
def Obligations.BuildStoresExactlyTheFrame : Prop :=
  ∀ (i : Instr) (s : State), CanSend s → i.wellFormed = true → (encode s.cfg.opcodes i).length ≤ s.cfg.maxFrame →
    ∃ t, exec i s = .next t ∧
      (∀ a, a < (encode s.cfg.opcodes i).length → t.buf.get a = (encode s.cfg.opcodes i)[a]?) ∧
      (∀ a, (encode s.cfg.opcodes i).length ≤ a → t.buf.get a = s.buf.get a)

/-- The frame of every command: whatever exec answers, the log, the link, the line configuration, the parameters and
what belongs to the host and the environment are unchanged; a command that sends leaves `rsp` and every buffer byte
outside its frame; a command that does not send leaves the whole buffer and every datapath register. An ill-formed
command (log 8) and a port that is not ready (log 9) are among the latter. -/
def Obligations.CommandsChangeNothingElse : Prop :=
  ∀ (i : Instr) (s t : State), exec i s = .next t →
    CommandFrame s t ∧
    (s.portReady = true → i.wellFormed = true → s.link = .up →
      (encode s.cfg.opcodes i).length ≤ s.cfg.maxFrame →
        t.rsp = s.rsp ∧ ∀ a, ¬ a < (encode s.cfg.opcodes i).length → t.buf.get a = s.buf.get a) ∧
    (¬(s.portReady = true ∧ i.wellFormed = true ∧ s.link = .up ∧
        (encode s.cfg.opcodes i).length ≤ s.cfg.maxFrame) →
      SameDatapath s t ∧ t.phase = s.phase ∧ t.cur = s.cur ∧ ∀ a, t.buf.get a = s.buf.get a)

/-- R101: the frame a command builds depends on the command and the parameters only, not on earlier commands, leftover
buffer bytes or earlier results: from any two states that can send it, the same bytes and datapath registers result. -/
def Obligations.BuildIgnoresHistory : Prop :=
  ∀ (i : Instr) (s1 s2 : State), CanSend s1 → CanSend s2 → s1.cfg = s2.cfg → i.wellFormed = true →
    (encode s1.cfg.opcodes i).length ≤ s1.cfg.maxFrame →
    ∃ t1 t2, exec i s1 = .next t1 ∧ exec i s2 = .next t2 ∧ t1.frameBytes = t2.frameBytes ∧
      t1.flen = t2.flen ∧ t1.wp = t2.wp ∧ t1.chk = t2.chk ∧ t1.txi = t2.txi ∧ t1.cur = t2.cur

/-! ### Errors at the command (R93, R202, R207) and at the port (R36, R78) -/

/-- R202: a command accepted while the link is Down answers DEVICE_UNAVAILABLE with subcause 0, and nothing else
changes (the spec's decision D12). -/
def Obligations.CommandOnDownLinkIsUnavailable : Prop :=
  ∀ (i : Instr) (s : State), s.portReady = true → i.wellFormed = true → s.link = .down →
    exec i s = .next { s with rsp := some ⟨.deviceUnavailable, 0⟩ }

/-- R93: with the link Up, a frame longer than MAX_FRAME ends with PAYLOAD_TOO_LARGE and nothing else changes; a frame
that fits is sent; and the frame is too long exactly for a text with L > MAX_FRAME - 14. -/
def Obligations.CapacityCheckIsExact : Prop :=
  ∀ (i : Instr) (s : State), CanSend s → i.wellFormed = true →
    (s.cfg.maxFrame < (encode s.cfg.opcodes i).length →
      exec i s = .next { s with rsp := some ⟨.payloadTooLarge, 0⟩ }) ∧
    ((encode s.cfg.opcodes i).length ≤ s.cfg.maxFrame → ∃ t, exec i s = .next t ∧ t.phase = .sending) ∧
    (s.cfg.maxFrame < (encode s.cfg.opcodes i).length ↔
      i.kind ∈ [Kind.drawString, .drawBitmap] ∧ s.cfg.maxFrame - 14 < i.text.length)

/-- An ill-formed command is refused at the port and leaves no trace but that it is no longer offered (R78, R36; that
the run goes on is the model's, log 8): exec of it changes nothing in any state, whatever the link. Which commands are
ill-formed is the statement WellFormedExactlyInRange. -/
def Obligations.IllFormedCommandLeavesNoTrace : Prop :=
  ∀ (i : Instr) (rs : List Request) (s : State), i.wellFormed = false →
    exec i s = .next s ∧
    (s.portReady = true → s.reqs = .command i :: rs → takeRequest s = .next { s with reqs := rs })

/-- When the port is ready, and that in every other state its turn takes nothing, so no request is lost (R36, R234). R36
names the conditions on phase and cur; that a link-up in progress keeps the port not ready is the model's (log 10). -/
def Obligations.BusyPortKeepsRequestsWaiting : Prop :=
  (∀ s : State, s.portReady = true ↔ s.phase = .idle ∧ s.cur = none ∧ s.linkStage = .notRunning) ∧
  (∀ s : State, s.portReady = false → takeRequest s = .next s) ∧
  (∀ (base : List Byte) (c : Instr) (s : State), InFlight base c s → s.portReady = false)

/-- When the port's turn comes and it is ready, step is exec of the well-formed command the host offers first, in the
state with that request and that move gone. -/
def Obligations.StepRunsTheOfferedCommand : Prop :=
  ∀ (i : Instr) (rs : List Request) (ms : List Move) (s : State), s.portReady = true → i.wellFormed = true →
    s.reqs = .command i :: rs → s.env = .takeRequest :: ms →
    step s = exec i { s with reqs := rs, env := ms }

/-- A command placed by withFetchWord is what the next step runs, from any state (log 13, log 14). -/
def Obligations.StepRunsThePlacedWord : Prop :=
  ∀ (s : State) (nbits w : Nat) (i : Instr), decodeTableWord nbits w = some i →
    step (s.withFetchWord nbits w) = exec i { s with phase := .idle, cur := none, linkStage := .notRunning }

/-! ### The buffer primitives (R91) -/

/-- R91: Append and AppendRaw store at the write pointer and advance it by one; only Append folds the checksum; no other
byte and no other register changes; at or beyond MAX_FRAME neither stores (log 15). -/
def Obligations.AppendStoresOneByteAtTheWritePointer : Prop :=
  ∀ (b : Byte) (s : State),
    (s.wp < s.cfg.maxFrame →
      (∃ t, s.append b = .next { t with chk := s.chk ^^^ b } ∧ s.appendRaw b = .next t ∧
        t = { s with buf := t.buf, wp := s.wp + 1 } ∧ t.buf.get s.wp = some b ∧
        ∀ a, a ≠ s.wp → t.buf.get a = s.buf.get a)) ∧
    (s.cfg.maxFrame ≤ s.wp → s.append b = .fault (.bufferOverrun s.wp) ∧ s.appendRaw b = .fault (.bufferOverrun s.wp))

/-! ### Responses (R200, R201) -/

/-- R200, R208: an error is a response and nothing else: `rsp`, `cur` and `phase` are written, every other field stays. -/
def Obligations.ErrorIsAResponseAndNothingElse : Prop :=
  ∀ (code : Status) (sub : Fin 4) (s : State),
    s.raiseError code sub = { s with rsp := some ⟨code, sub⟩, cur := none, phase := .idle }

/-- The numbers of R201's table: codes 0 to 4 in its order, and the subcauses of a failed open 1 to 3. -/
def Obligations.StatusNumbers : Prop :=
  [Status.ok, .deviceUnavailable, .ioError, .shortWrite, .payloadTooLarge].map Status.number = [0, 1, 2, 3, 4] ∧
  [OpenResult.notFound, .permissionDenied, .ioError].map OpenResult.subcause = [1, 2, 3]

/-! ### The write (R176 to R181) -/

/-- R177: with a frame in flight and a byte left, the transport takes exactly the next byte of that frame; with none
left, or no frame in flight, it takes nothing (that such a move is skipped is the model's, log 7); and in any state no
other move extends the log (the spec's decision D13). -/
def Obligations.BytesAreAcceptedInOrder : Prop :=
  (∀ (base : List Byte) (c : Instr) (s : State), InFlight base c s → s.txi < s.flen.toNat →
    ∃ b, (encode s.cfg.opcodes c)[s.txi]? = some b ∧
      acceptByte s = .next { s with txlog := s.txlog ++ [b], txi := s.txi + 1 }) ∧
  (∀ s : State, ¬(s.phase = .sending ∧ s.txi < s.flen.toNat) → acceptByte s = .next s) ∧
  (∀ (m : Move) (s t : State), m ≠ .acceptByte → runMove m s = .next t → t.txlog = s.txlog)

/-- R178: which results may end a write, the response each gives, and what follows: Idle, no command, the link
unchanged (the spec's decisions D13, D35). With no answer coming the block stays in Sending, its port not ready. That a
result its constraint does not allow changes nothing is the model's (log 7), and so is no answer coming as an empty list
of moves (log 6). -/
def Obligations.WriteResultsFollowTheirConstraints : Prop :=
  ∀ s : State, s.phase = .sending →
    (s.txi = s.flen.toNat →
      endWrite .ok s = .next { s with rsp := some ⟨.ok, 0⟩, cur := none, phase := .idle }) ∧
    (s.txi < s.flen.toNat →
      endWrite .shortWrite s = .next { s with rsp := some ⟨.shortWrite, 0⟩, cur := none, phase := .idle }) ∧
    (s.txi ≤ s.flen.toNat →
      endWrite .ioError s = .next { s with rsp := some ⟨.ioError, 0⟩, cur := none, phase := .idle }) ∧
    (s.txi ≠ s.flen.toNat → endWrite .ok s = .next s) ∧
    (¬ s.txi < s.flen.toNat → endWrite .shortWrite s = .next s) ∧
    (s.env = [] → step s = .next s ∧ s.portReady = false)

/-- R180: the response to a write with txi < flen at its end is never OK. -/
def Obligations.ShortWriteIsNeverSuccess : Prop :=
  ∀ (r : WriteResult) (s t : State), s.phase = .sending → s.txi < s.flen.toNat → endWrite r s = .next t →
    t = s ∨ (t.phase = .idle ∧ ∃ code, t.rsp = some ⟨code, 0⟩ ∧ code ≠ .ok)

/-- What any one step does to a frame in flight: it stays in flight with the same base, or its write ends with a
response that tells exactly which part of the frame is in the log, or a reset abandons it (R45, R176 to R181, R231). A
move that is not allowed is skipped (log 7). -/
def Obligations.StepOfAFrameInFlight : Prop :=
  ∀ (base : List Byte) (c : Instr) (s : State), InFlight base c s →
    ∃ t, step s = .next t ∧
      ((InFlight base c t ∧ t.rsp = s.rsp ∧ t.reqs = s.reqs) ∨
       (t.phase = .idle ∧ t.cur = none ∧ t.link = .up ∧ t.rsp = some ⟨.ok, 0⟩ ∧
          t.txlog = base ++ encode s.cfg.opcodes c) ∨
       (t.phase = .idle ∧ t.cur = none ∧ t.link = .up ∧ t.rsp = some ⟨.shortWrite, 0⟩ ∧
          ∃ k, k < (encode s.cfg.opcodes c).length ∧ t.txlog = base ++ (encode s.cfg.opcodes c).take k) ∨
       (t.phase = .idle ∧ t.cur = none ∧ t.link = .up ∧ t.rsp = some ⟨.ioError, 0⟩ ∧
          ∃ k, k ≤ (encode s.cfg.opcodes c).length ∧ t.txlog = base ++ (encode s.cfg.opcodes c).take k) ∨
       (t.phase = .idle ∧ t.cur = none ∧ t.link = .down ∧ t.rsp = none ∧ t.txlog = s.txlog))

/-- A command's whole life on a good link: accepted, every byte taken, then Ok. The log gains exactly Encode(c), the
response is OK, and the block is Idle with its link Up, ready for the next request (R36, R37, R90, R177, R178). -/
def Obligations.AcceptedFrameIsDelivered : Prop :=
  ∀ (i : Instr) (rs : List Request) (ms : List Move) (s : State), CanSend s → i.wellFormed = true →
    (encode s.cfg.opcodes i).length ≤ s.cfg.maxFrame → s.reqs = .command i :: rs →
    s.env = .takeRequest ::
      (List.replicate (encode s.cfg.opcodes i).length .acceptByte ++ .endWrite .ok :: ms) →
    ∃ t, Claims.runs ((encode s.cfg.opcodes i).length + 2) s t ∧
      t.txlog = s.txlog ++ encode s.cfg.opcodes i ∧ t.rsp = some ⟨.ok, 0⟩ ∧ t.portReady = true ∧ t.link = .up ∧
      t.reqs = rs ∧ t.env = ms

/-- A write cut off after k bytes (R204, R206): ShortWrite with k < n, or IOError with k <= n. The log gains exactly the
first k bytes, the response names the error, the link stays Up, and the port is ready for the next request. -/
def Obligations.FailedWriteLeavesAPrefix : Prop :=
  ∀ (i : Instr) (k : Nat) (r : WriteResult) (rs : List Request) (ms : List Move) (s : State), CanSend s →
    i.wellFormed = true → (encode s.cfg.opcodes i).length ≤ s.cfg.maxFrame →
    ((r = .shortWrite ∧ k < (encode s.cfg.opcodes i).length) ∨
      (r = .ioError ∧ k ≤ (encode s.cfg.opcodes i).length)) →
    s.reqs = .command i :: rs → s.env = .takeRequest :: (List.replicate k .acceptByte ++ .endWrite r :: ms) →
    ∃ t, Claims.runs (k + 2) s t ∧
      t.txlog = s.txlog ++ (encode s.cfg.opcodes i).take k ∧ t.rsp = some ⟨r.status, 0⟩ ∧ t.portReady = true ∧
      t.link = .up ∧ t.reqs = rs ∧ t.env = ms

/-- R215: with neither a result nor a reset among the coming moves, a frame in flight stays in flight for ever: however
many steps run, the block is in Sending, no response comes, and the port is not ready. A reset is the way out. -/
def Obligations.WriteWithoutAnswerHangs : Prop :=
  ∀ (base : List Byte) (c : Instr) (s : State), InFlight base c s →
    ((∀ m ∈ s.env, (∀ r, m ≠ .endWrite r) ∧ m ≠ .assertReset) →
      ∀ k, ∃ t, Claims.runs k s t ∧ t.phase = .sending ∧ t.cur = some c ∧ t.portReady = false ∧ t.rsp = s.rsp) ∧
    (∃ t, runMove .assertReset s = .next t ∧ t.portReady = true)

/-- The order of the log (R45, R48): from a block at rest, after any number of steps the log is what it was, followed by
prefixes of the frames of well-formed commands, in the order the host offered them, none interleaved with another. -/
def Obligations.LogIsFramePrefixesInRequestOrder : Prop :=
  ∀ (k : Nat) (s t : State), Good s → AtRest s → Claims.runs k s t →
    ∃ sent : List (Instr × Nat),
      t.txlog = s.txlog ++ sent.flatMap (fun e => (encode s.cfg.opcodes e.1).take e.2) ∧
      (∀ e ∈ sent, e.1.wellFormed = true ∧ (encode s.cfg.opcodes e.1).length ≤ s.cfg.maxFrame) ∧
      (sent.map fun e => Request.command e.1).Sublist s.reqs

/-! ### Link operations (R172 to R174) -/

/-- R172: link-up. On a ready port with the link Down: a failed open answers DEVICE_UNAVAILABLE with its subcause; a
failed configure answers it with subcause 3; both leave the link Down; success sets the line to LINECFG, the link Up,
and answers OK. No byte is emitted. With the link Up it is refused at the port without a trace; that it is then no longer
offered and the run goes on is the model's (log 8). The answers come as moves (log 6, log 10). -/
def Obligations.LinkUpFollowsItsTwoAnswers : Prop :=
  ∀ (s : State) (rs : List Request) (ms : List Move), s.portReady = true → s.reqs = .linkUp :: rs →
    (∀ (r : OpenResult) (sub : Fin 4), s.link = .down →
      (r, sub) ∈ [(OpenResult.notFound, (1 : Fin 4)), (.permissionDenied, 2), (.ioError, 3)] →
      s.env = .takeRequest :: .answerOpen r :: ms →
      Claims.runs 2 s { s with rsp := some ⟨.deviceUnavailable, sub⟩, reqs := rs, env := ms }) ∧
    (s.link = .down → s.env = .takeRequest :: .answerOpen .ok :: .answerConfigure .ioError :: ms →
      Claims.runs 3 s { s with rsp := some ⟨.deviceUnavailable, 3⟩, reqs := rs, env := ms }) ∧
    (s.link = .down → s.env = .takeRequest :: .answerOpen .ok :: .answerConfigure .ok :: ms →
      Claims.runs 3 s { s with link := .up, lineCfg := lineCfgFixed, rsp := some ⟨.ok, 0⟩, reqs := rs, env := ms }) ∧
    (s.link = .up → s.env = .takeRequest :: ms → Claims.runs 1 s { s with reqs := rs, env := ms })

/-- R174: a close that a ready port takes sets the link Down and answers OK, whatever the link was; nothing else changes
but that the request is no longer offered, and no byte is emitted. So does a step at the port's turn (log 6). Where the
port is not ready, a close changes nothing (log 9), so it cannot cut a frame in flight. -/
def Obligations.CloseDropsTheLink : Prop :=
  (∀ (s : State) (rs : List Request), s.portReady = true → s.reqs = .close :: rs →
    takeRequest s = .next { s with link := .down, rsp := some ⟨.ok, 0⟩, reqs := rs }) ∧
  (∀ (s : State) (rs : List Request) (ms : List Move), s.portReady = true → s.reqs = .close :: rs →
    s.env = .takeRequest :: ms →
    step s = .next { s with link := .down, rsp := some ⟨.ok, 0⟩, reqs := rs, env := ms }) ∧
  (∀ s : State, s.portReady = true → execClose s = .next { s with link := .down, rsp := some ⟨.ok, 0⟩ }) ∧
  (∀ s : State, s.portReady = false → execClose s = .next s)

/-- Only a link-up's answers, a close and a reset change the link (R28, R170). -/
def Obligations.OnlyLinkOperationsChangeTheLink : Prop :=
  ∀ (m : Move) (s t : State), runMove m s = .next t → t.link ≠ s.link →
    (∃ r, m = .answerOpen r ∧ s.linkStage = .opening) ∨
    (∃ r, m = .answerConfigure r ∧ s.linkStage = .configuring) ∨
    (m = .takeRequest ∧ s.portReady = true ∧ s.reqs.head? = some .close) ∨ m = .assertReset

/-! ### Reset (R19, R230, R231) -/

/-- R230: reset in any state. The values the spec gives, and the log unchanged. Nothing is said of the registers it
leaves unspecified: `buf`, `wp`, `chk`, `flen`, `txi`. The port is ready after it. (The spec's decision D18.) -/
def Obligations.ResetTakesTheResetValues : Prop :=
  ∀ (s : State) (ms : List Move), s.env = .assertReset :: ms →
    ∃ t, step s = .next t ∧ t.phase = .idle ∧ t.cur = none ∧ t.link = .down ∧ t.rsp = none ∧ t.txlog = s.txlog ∧
      t.lineCfg = s.lineCfg ∧ t.cfg = s.cfg ∧ t.portReady = true

/-- R231: a reset during a write abandons it: no response, the bytes taken so far stay in the log, and no further byte
of that frame is taken; during a link-up (log 10) likewise no response, and the link is Down. An answer that comes after
the reset is skipped (log 7). -/
def Obligations.ResetAbandonsTheRequest : Prop :=
  (∀ (base : List Byte) (c : Instr) (s : State), InFlight base c s →
    ∃ t, runMove .assertReset s = .next t ∧ t.rsp = none ∧ t.phase = .idle ∧
      t.txlog = base ++ (encode s.cfg.opcodes c).take s.txi ∧ acceptByte t = .next t ∧
      ∀ r, endWrite r t = .next t) ∧
  (∀ s : State, s.linkStage ≠ .notRunning →
    ∃ t, runMove .assertReset s = .next t ∧ t.rsp = none ∧ t.link = .down ∧
      (∀ r, answerOpen r t = .next t) ∧ ∀ r, answerConfigure r t = .next t)

/-- R19: the power-on values the spec gives. -/
def Obligations.PowerOnValues : Prop :=
  State.reset.phase = .idle ∧ State.reset.cur = none ∧ State.reset.txlog = [] ∧ State.reset.link = .down ∧
  State.reset.rsp = none ∧ State.reset.lineCfg = lineCfgFixed

/-! ### Invariants of the whole machine -/

/-- The state right after reset is a good state. -/
def Obligations.ResetIsGood : Prop := Good State.reset

/-- Every step keeps the invariant, from every good state. -/
def Obligations.StepKeepsTheInvariant : Prop :=
  ∀ s t : State, Good s → step s = .next t → Good t

/-- From every good state a step goes on: the model never stops. In particular no store goes to or beyond MAX_FRAME
(R162, R211) and the transport never reads a byte the frame did not write (R22). -/
def Obligations.GoodStatesNeverStop : Prop :=
  ∀ s : State, Good s → ∃ t, step s = .next t

/-- The log is append-only (R27): whatever step is taken from whatever state, the log is a prefix of the log after it,
and at most one byte longer. -/
def Obligations.LogIsAppendOnly : Prop :=
  ∀ s t : State, step s = .next t → t.txlog = s.txlog ∨ ∃ b, t.txlog = s.txlog ++ [b]

/-- The parameters never change, and neither does LINECFG (R7, R30, R50). -/
def Obligations.ParametersAndLineConfigAreConstant : Prop :=
  ∀ s t : State, step s = .next t → t.cfg = s.cfg ∧ (s.lineCfg = lineCfgFixed → t.lineCfg = lineCfgFixed)

/-- No request in the queue is lost, merged or reordered: a step leaves the queue, or takes its head, and it takes it
only when the port is ready (R36, R234). -/
def Obligations.RequestsAreTakenInOrder : Prop :=
  ∀ s t : State, step s = .next t →
    t.reqs = s.reqs ∨ (s.portReady = true ∧ ∃ r, s.reqs = r :: t.reqs)

/-! ### The serial line (R30, R183, R185) -/

/-- R30: every field of LINECFG, and that no command writes it. -/
def Obligations.LineConfigurationValues : Prop :=
  lineCfgFixed.baud = 115200 ∧ lineCfgFixed.raw = true ∧ lineCfgFixed.hupcl = true ∧ lineCfgFixed.flowCtl = false ∧
  lineCfgFixed.dataBits = 8 ∧ lineCfgFixed.parity = .none ∧ lineCfgFixed.stopBits = 1 ∧
  lineCfgFixed.bitOrder = .lsbFirst ∧
  ∀ (i : Instr) (s t : State), exec i s = .next t → t.lineCfg = s.lineCfg

/-- A character on the line (R183): a start bit 0, bits 0 to 7 of the byte, one stop bit 1. The framing is the spec's
own choice (log 17). -/
def Obligations.CharacterIsStartDataStop : Prop :=
  ∀ b : Byte, charBits lineCfgFixed b =
    [false, b.getLsbD 0, b.getLsbD 1, b.getLsbD 2, b.getLsbD 3, b.getLsbD 4, b.getLsbD 5, b.getLsbD 6, b.getLsbD 7,
     true]

/-- Every byte value goes over the line as itself, in order, whatever the gaps between the characters (R183, R185): a
receiver of such characters reads back exactly the bytes sent. -/
def Obligations.LineCarriesTheLogUnchanged : Prop :=
  ∀ (gaps : List Nat) (bytes : List Byte) (idle : Nat),
    lineRead (lineWave lineCfgFixed gaps bytes ++ List.replicate idle true) = some bytes

/-! ### The textual form (R77) -/

/-- The two short names of C9 name the same commands, whatever follows the name. -/
def Obligations.ShortNamesNameTheSameCommand : Prop :=
  ∀ rest : List Char,
    parseCommand ("set-en-font(".toList ++ rest) = parseCommand ("set-english-font(".toList ++ rest) ∧
    parseCommand ("set-ch-font(".toList ++ rest) = parseCommand ("set-chinese-font(".toList ++ rest)

/-! ### Well-formedness (R78) -/

/-- R78, clause by clause: a command is well-formed exactly when every byte operand is 0 to 255, every coordinate -2^31 to
2^31 - 1, the baud value 0 to 2^32 - 1, and the text has no 0x00. The length of a text is no part of it. -/
def Obligations.WellFormedExactlyInRange : Prop :=
  (∀ i ∈ [Instr.handshake, .readBaud, .stopMode, .update, .loadFont, .loadPicture, .clear], i.wellFormed = true) ∧
  (∀ v : Int, (Instr.memoryMode v).wellFormed = true ↔ Claims.U8 v) ∧
  (∀ v : Int, (Instr.screenRotation v).wellFormed = true ↔ Claims.U8 v) ∧
  (∀ v : Int, (Instr.setEnFont v).wellFormed = true ↔ Claims.U8 v) ∧
  (∀ v : Int, (Instr.setChFont v).wellFormed = true ↔ Claims.U8 v) ∧
  (∀ v w : Int, (Instr.setColor v w).wellFormed = true ↔ Claims.U8 v ∧ Claims.U8 w) ∧
  (∀ v : Int, (Instr.setBaud v).wellFormed = true ↔ 0 ≤ v ∧ v ≤ 4294967295) ∧
  (∀ a b : Int, (Instr.drawPixel a b).wellFormed = true ↔ Claims.S32 a ∧ Claims.S32 b) ∧
  (∀ a b c : Int, (Instr.drawCircle a b c).wellFormed = true ↔ Claims.S32 a ∧ Claims.S32 b ∧ Claims.S32 c) ∧
  (∀ a b c : Int, (Instr.fillCircle a b c).wellFormed = true ↔ Claims.S32 a ∧ Claims.S32 b ∧ Claims.S32 c) ∧
  (∀ a b c d : Int, (Instr.drawLine a b c d).wellFormed = true ↔
    Claims.S32 a ∧ Claims.S32 b ∧ Claims.S32 c ∧ Claims.S32 d) ∧
  (∀ a b c d : Int, (Instr.fillRect a b c d).wellFormed = true ↔
    Claims.S32 a ∧ Claims.S32 b ∧ Claims.S32 c ∧ Claims.S32 d) ∧
  (∀ a b c d e f : Int, (Instr.drawTriangle a b c d e f).wellFormed = true ↔
    Claims.S32 a ∧ Claims.S32 b ∧ Claims.S32 c ∧ Claims.S32 d ∧ Claims.S32 e ∧ Claims.S32 f) ∧
  (∀ a b c d e f : Int, (Instr.fillTriangle a b c d e f).wellFormed = true ↔
    Claims.S32 a ∧ Claims.S32 b ∧ Claims.S32 c ∧ Claims.S32 d ∧ Claims.S32 e ∧ Claims.S32 f) ∧
  (∀ (text : List Byte) (a b : Int), (Instr.drawString text a b).wellFormed = true ↔
    (∀ x ∈ text, x ≠ 0x00) ∧ Claims.S32 a ∧ Claims.S32 b) ∧
  (∀ (text : List Byte) (a b : Int), (Instr.drawBitmap text a b).wellFormed = true ↔
    (∀ x ∈ text, x ≠ 0x00) ∧ Claims.S32 a ∧ Claims.S32 b)
end

