-- ==== Sys2Proof/Laws/Flags.lean ====
section
/-! SUPPORT. The checksum's arithmetic (40_codec.md R98: associative, commutative, 0x00 the identity, every byte its own
inverse). -/

namespace Sys2Proof.Machine

@[simp] theorem chkFold_eq (a b : Byte) : chkFold a b = a ^^^ b := rfl

@[simp] theorem xorAll_nil : xorAll [] = 0x00 := rfl

theorem foldl_chkFold (c : Byte) (bs : List Byte) : bs.foldl chkFold c = c ^^^ xorAll bs := by
  unfold xorAll
  induction bs generalizing c with
  | nil => simp
  | cons b bs ih =>
    rw [List.foldl_cons, List.foldl_cons, ih, ih (chkFold 0x00 b)]
    simp [BitVec.xor_assoc]

@[simp] theorem xorAll_cons (b : Byte) (bs : List Byte) : xorAll (b :: bs) = b ^^^ xorAll bs := by
  rw [xorAll, List.foldl_cons, foldl_chkFold]
  simp

@[simp] theorem xorAll_append (as bs : List Byte) : xorAll (as ++ bs) = xorAll as ^^^ xorAll bs := by
  induction as with
  | nil => simp
  | cons a as ih => simp [ih, BitVec.xor_assoc]

/-- A sequence followed by its own checksum XORs to zero. -/
theorem xorAll_with_checksum (bs : List Byte) : xorAll (bs ++ [xorAll bs]) = 0x00 := by simp

end Sys2Proof.Machine
end

