-- ==== Sys2Proof/Laws/Memory.lean ====
section
/-! SUPPORT. The frame buffer's bytes: what a read gives after a write, and that every operation keeps the canonical
form and the bound. -/

namespace Sys2Proof.Machine

@[simp] theorem Memory.get_nil (i : Nat) : Memory.get [] i = none := rfl

@[simp] theorem Memory.setAll_nil (m : Memory) (i : Nat) : m.setAll i [] = m := rfl

@[simp] theorem Memory.setAll_cons (m : Memory) (i : Nat) (b : Byte) (bs : List Byte) :
    m.setAll i (b :: bs) = (m.set i b).setAll (i + 1) bs := rfl

@[simp] theorem Memory.slice_zero (m : Memory) (i : Nat) : m.slice i 0 = [] := rfl

@[simp] theorem Memory.slice_succ (m : Memory) (i len : Nat) :
    m.slice i (len + 1) = m.get i :: m.slice (i + 1) len := rfl

@[simp] theorem Memory.length_slice (m : Memory) (i len : Nat) : (m.slice i len).length = len := by
  induction len generalizing i with
  | zero => rfl
  | succ n ih => simp [ih]

/-- A read after a write: the written byte at its index, what was there anywhere else. -/
theorem Memory.get_set (m : Memory) (i j : Nat) (v : Byte) :
    (m.set i v).get j = if j = i then some v else m.get j := by
  induction m with
  | nil => simp [Memory.set, Memory.get, eq_comm]
  | cons c m ih =>
    obtain ⟨a, b⟩ := c
    by_cases h1 : i < a
    · simp [Memory.set, h1, Memory.get, eq_comm]
    · by_cases h2 : i = a
      · subst h2
        by_cases h3 : j = i
        · simp [Memory.set, Memory.get, h3]
        · simp [Memory.set, Memory.get, h3, Ne.symm h3]
      · by_cases h3 : a = j
        · subst h3
          simp [Memory.set, h1, h2, Memory.get, Ne.symm h2]
        · simp [Memory.set, h1, h2, Memory.get, h3, ih]

/-- A read after writing a sequence. -/
theorem Memory.get_setAll (m : Memory) (i j : Nat) (bs : List Byte) :
    (m.setAll i bs).get j = if i ≤ j ∧ j < i + bs.length then bs[j - i]? else m.get j := by
  induction bs generalizing m i with
  | nil => simp
  | cons b bs ih =>
    rw [Memory.setAll_cons, ih, Memory.get_set]
    by_cases h0 : j = i
    · subst h0
      simp
    · by_cases h : i ≤ j ∧ j < i + (b :: bs).length
      · obtain ⟨h1, h2⟩ := h
        simp only [List.length_cons] at h2
        have h3 : j - i = (j - (i + 1)) + 1 := by omega
        rw [if_pos (by omega), if_pos (by simp; omega), h3, List.getElem?_cons_succ]
      · simp only [List.length_cons] at h
        rw [if_neg (by omega), if_neg h0, if_neg (by simp; omega)]

theorem Memory.setAll_append (m : Memory) (i : Nat) (as bs : List Byte) :
    m.setAll i (as ++ bs) = (m.setAll i as).setAll (i + as.length) bs := by
  induction as generalizing m i with
  | nil => simp
  | cons a as ih =>
    rw [List.cons_append, Memory.setAll_cons, ih, Memory.setAll_cons, List.length_cons]
    congr 1
    omega

/-- Each byte of a slice, by its index. -/
theorem Memory.getElem?_slice (m : Memory) (i len k : Nat) :
    (m.slice i len)[k]? = if k < len then some (m.get (i + k)) else none := by
  induction len generalizing i k with
  | zero => simp
  | succ n ih =>
    cases k with
    | zero => simp
    | succ k =>
      rw [Memory.slice_succ, List.getElem?_cons_succ, ih]
      have : i + 1 + k = i + (k + 1) := by omega
      simp [this]

/-- Reading back exactly the sequence written. -/
theorem Memory.slice_setAll (m : Memory) (i : Nat) (bs : List Byte) :
    (m.setAll i bs).slice i bs.length = bs.map some := by
  apply List.ext_getElem?
  intro k
  rw [Memory.getElem?_slice, List.getElem?_map]
  by_cases h : k < bs.length
  · rw [if_pos h, Memory.get_setAll, if_pos ⟨by omega, by omega⟩]
    simp [h]
  · rw [if_neg h]
    simp [Nat.le_of_not_lt h]

theorem Memory.risesFrom_mono (lo lo' : Nat) (m : Memory) (h : lo' ≤ lo) (hm : m.risesFrom lo = true) :
    m.risesFrom lo' = true := by
  cases m with
  | nil => rfl
  | cons c m =>
    simp only [Memory.risesFrom, Bool.and_eq_true, decide_eq_true_eq] at hm ⊢
    exact ⟨by omega, hm.2⟩

theorem Memory.risesFrom_set (lo : Nat) (m : Memory) (i : Nat) (v : Byte) (hi : lo ≤ i)
    (hm : m.risesFrom lo = true) : (m.set i v).risesFrom lo = true := by
  induction m generalizing lo with
  | nil => simpa [Memory.set, Memory.risesFrom] using hi
  | cons c m ih =>
    obtain ⟨a, b⟩ := c
    simp only [Memory.risesFrom, Bool.and_eq_true, decide_eq_true_eq] at hm
    by_cases h1 : i < a
    · simp [Memory.set, h1, Memory.risesFrom, hi, hm.2]
    · by_cases h2 : i = a
      · subst h2
        simp [Memory.set, Memory.risesFrom, hi, hm.2]
      · simp only [Memory.set, h1, h2, if_false, Memory.risesFrom, Bool.and_eq_true, decide_eq_true_eq]
        exact ⟨hm.1, ih (a + 1) (by omega) hm.2⟩

/-- Every write keeps the canonical form. -/
theorem Memory.wf_set (m : Memory) (i : Nat) (v : Byte) (h : m.wf = true) : (m.set i v).wf = true :=
  Memory.risesFrom_set 0 m i v (Nat.zero_le i) h

theorem Memory.wf_setAll (m : Memory) (i : Nat) (bs : List Byte) (h : m.wf = true) : (m.setAll i bs).wf = true := by
  induction bs generalizing m i with
  | nil => exact h
  | cons b bs ih => exact ih _ _ (Memory.wf_set m i b h)

@[simp] theorem Memory.wf_nil : Memory.wf [] = true := rfl

theorem Memory.below_set (k : Nat) (m : Memory) (i : Nat) (v : Byte) (hi : i < k) (h : m.below k = true) :
    (m.set i v).below k = true := by
  induction m with
  | nil => simpa [Memory.set, Memory.below] using hi
  | cons c m ih =>
    obtain ⟨a, b⟩ := c
    have hc : a < k ∧ Memory.below k m = true := by simpa [Memory.below] using h
    by_cases h1 : i < a
    · simpa [Memory.set, h1, Memory.below, hi] using h
    · by_cases h2 : i = a
      · subst h2
        simpa [Memory.set, Memory.below, hi] using hc.2
      · have := ih hc.2
        simp only [Memory.below] at this
        simp [Memory.set, h1, h2, Memory.below, hc.1, this]

/-- A sequence that ends below the bound is written below the bound. -/
theorem Memory.below_setAll (k : Nat) (m : Memory) (i : Nat) (bs : List Byte) (hi : i + bs.length ≤ k)
    (h : m.below k = true) : (m.setAll i bs).below k = true := by
  induction bs generalizing m i with
  | nil => exact h
  | cons b bs ih =>
    simp only [List.length_cons] at hi
    exact ih _ _ (by omega) (Memory.below_set k m i b (by omega) h)

@[simp] theorem Memory.below_nil (k : Nat) : Memory.below k [] = true := rfl

/-- Below its first index a canonical memory has no byte. -/
theorem Memory.get_eq_none_of_risesFrom (lo i : Nat) (m : Memory) (h : m.risesFrom lo = true) (hi : i < lo) :
    m.get i = none := by
  induction m generalizing lo with
  | nil => rfl
  | cons c m ih =>
    obtain ⟨a, b⟩ := c
    simp only [Memory.risesFrom, Bool.and_eq_true, decide_eq_true_eq] at h
    rw [Memory.get, if_neg (by omega)]
    exact ih (a + 1) h.2 (by omega)

end Sys2Proof.Machine
end

