-- ==== Sys2Proof/Laws/State.lean ====
section
/-! SUPPORT. One lemma per field of the state and per named update. -/

namespace Sys2Proof.Machine

@[simp] theorem State.respond_phase (s : State) (c : Status) (k : Fin 4) : (s.respond c k).phase = .idle := rfl
@[simp] theorem State.respond_buf (s : State) (c : Status) (k : Fin 4) : (s.respond c k).buf = s.buf := rfl
@[simp] theorem State.respond_wp (s : State) (c : Status) (k : Fin 4) : (s.respond c k).wp = s.wp := rfl
@[simp] theorem State.respond_chk (s : State) (c : Status) (k : Fin 4) : (s.respond c k).chk = s.chk := rfl
@[simp] theorem State.respond_flen (s : State) (c : Status) (k : Fin 4) : (s.respond c k).flen = s.flen := rfl
@[simp] theorem State.respond_txi (s : State) (c : Status) (k : Fin 4) : (s.respond c k).txi = s.txi := rfl
@[simp] theorem State.respond_cur (s : State) (c : Status) (k : Fin 4) : (s.respond c k).cur = none := rfl
@[simp] theorem State.respond_txlog (s : State) (c : Status) (k : Fin 4) : (s.respond c k).txlog = s.txlog := rfl
@[simp] theorem State.respond_link (s : State) (c : Status) (k : Fin 4) : (s.respond c k).link = s.link := rfl
@[simp] theorem State.respond_rsp (s : State) (c : Status) (k : Fin 4) : (s.respond c k).rsp = some ⟨c, k⟩ := rfl
@[simp] theorem State.respond_lineCfg (s : State) (c : Status) (k : Fin 4) : (s.respond c k).lineCfg = s.lineCfg := rfl
@[simp] theorem State.respond_cfg (s : State) (c : Status) (k : Fin 4) : (s.respond c k).cfg = s.cfg := rfl
@[simp] theorem State.respond_linkStage (s : State) (c : Status) (k : Fin 4) : (s.respond c k).linkStage = s.linkStage := rfl
@[simp] theorem State.respond_reqs (s : State) (c : Status) (k : Fin 4) : (s.respond c k).reqs = s.reqs := rfl
@[simp] theorem State.respond_env (s : State) (c : Status) (k : Fin 4) : (s.respond c k).env = s.env := rfl
@[simp] theorem State.respond_resets (s : State) (c : Status) (k : Fin 4) : (s.respond c k).resets = s.resets := rfl

@[simp] theorem State.raiseError_phase (s : State) (c : Status) (k : Fin 4) : (s.raiseError c k).phase = .idle := rfl
@[simp] theorem State.raiseError_buf (s : State) (c : Status) (k : Fin 4) : (s.raiseError c k).buf = s.buf := rfl
@[simp] theorem State.raiseError_wp (s : State) (c : Status) (k : Fin 4) : (s.raiseError c k).wp = s.wp := rfl
@[simp] theorem State.raiseError_chk (s : State) (c : Status) (k : Fin 4) : (s.raiseError c k).chk = s.chk := rfl
@[simp] theorem State.raiseError_flen (s : State) (c : Status) (k : Fin 4) : (s.raiseError c k).flen = s.flen := rfl
@[simp] theorem State.raiseError_txi (s : State) (c : Status) (k : Fin 4) : (s.raiseError c k).txi = s.txi := rfl
@[simp] theorem State.raiseError_cur (s : State) (c : Status) (k : Fin 4) : (s.raiseError c k).cur = none := rfl
@[simp] theorem State.raiseError_txlog (s : State) (c : Status) (k : Fin 4) : (s.raiseError c k).txlog = s.txlog := rfl
@[simp] theorem State.raiseError_link (s : State) (c : Status) (k : Fin 4) : (s.raiseError c k).link = s.link := rfl
@[simp] theorem State.raiseError_rsp (s : State) (c : Status) (k : Fin 4) : (s.raiseError c k).rsp = some ⟨c, k⟩ := rfl
@[simp] theorem State.raiseError_lineCfg (s : State) (c : Status) (k : Fin 4) : (s.raiseError c k).lineCfg = s.lineCfg := rfl
@[simp] theorem State.raiseError_cfg (s : State) (c : Status) (k : Fin 4) : (s.raiseError c k).cfg = s.cfg := rfl
@[simp] theorem State.raiseError_linkStage (s : State) (c : Status) (k : Fin 4) : (s.raiseError c k).linkStage = s.linkStage := rfl
@[simp] theorem State.raiseError_reqs (s : State) (c : Status) (k : Fin 4) : (s.raiseError c k).reqs = s.reqs := rfl
@[simp] theorem State.raiseError_env (s : State) (c : Status) (k : Fin 4) : (s.raiseError c k).env = s.env := rfl
@[simp] theorem State.raiseError_resets (s : State) (c : Status) (k : Fin 4) : (s.raiseError c k).resets = s.resets := rfl

@[simp] theorem State.startBuild_phase (s : State) (n : Nat) : (s.startBuild n).phase = s.phase := rfl
@[simp] theorem State.startBuild_buf (s : State) (n : Nat) : (s.startBuild n).buf = s.buf := rfl
@[simp] theorem State.startBuild_wp (s : State) (n : Nat) : (s.startBuild n).wp = 0 := rfl
@[simp] theorem State.startBuild_chk (s : State) (n : Nat) : (s.startBuild n).chk = 0x00 := rfl
@[simp] theorem State.startBuild_flen (s : State) (n : Nat) : (s.startBuild n).flen = BitVec.ofNat 16 n := rfl
@[simp] theorem State.startBuild_txi (s : State) (n : Nat) : (s.startBuild n).txi = s.txi := rfl
@[simp] theorem State.startBuild_cur (s : State) (n : Nat) : (s.startBuild n).cur = s.cur := rfl
@[simp] theorem State.startBuild_txlog (s : State) (n : Nat) : (s.startBuild n).txlog = s.txlog := rfl
@[simp] theorem State.startBuild_link (s : State) (n : Nat) : (s.startBuild n).link = s.link := rfl
@[simp] theorem State.startBuild_rsp (s : State) (n : Nat) : (s.startBuild n).rsp = s.rsp := rfl
@[simp] theorem State.startBuild_lineCfg (s : State) (n : Nat) : (s.startBuild n).lineCfg = s.lineCfg := rfl
@[simp] theorem State.startBuild_cfg (s : State) (n : Nat) : (s.startBuild n).cfg = s.cfg := rfl
@[simp] theorem State.startBuild_linkStage (s : State) (n : Nat) : (s.startBuild n).linkStage = s.linkStage := rfl
@[simp] theorem State.startBuild_reqs (s : State) (n : Nat) : (s.startBuild n).reqs = s.reqs := rfl
@[simp] theorem State.startBuild_env (s : State) (n : Nat) : (s.startBuild n).env = s.env := rfl
@[simp] theorem State.startBuild_resets (s : State) (n : Nat) : (s.startBuild n).resets = s.resets := rfl

@[simp] theorem State.handOff_phase (s : State) : s.handOff.phase = .sending := rfl
@[simp] theorem State.handOff_buf (s : State) : s.handOff.buf = s.buf := rfl
@[simp] theorem State.handOff_wp (s : State) : s.handOff.wp = s.wp := rfl
@[simp] theorem State.handOff_chk (s : State) : s.handOff.chk = s.chk := rfl
@[simp] theorem State.handOff_flen (s : State) : s.handOff.flen = s.flen := rfl
@[simp] theorem State.handOff_txi (s : State) : s.handOff.txi = 0 := rfl
@[simp] theorem State.handOff_cur (s : State) : s.handOff.cur = s.cur := rfl
@[simp] theorem State.handOff_txlog (s : State) : s.handOff.txlog = s.txlog := rfl
@[simp] theorem State.handOff_link (s : State) : s.handOff.link = s.link := rfl
@[simp] theorem State.handOff_rsp (s : State) : s.handOff.rsp = s.rsp := rfl
@[simp] theorem State.handOff_lineCfg (s : State) : s.handOff.lineCfg = s.lineCfg := rfl
@[simp] theorem State.handOff_cfg (s : State) : s.handOff.cfg = s.cfg := rfl
@[simp] theorem State.handOff_linkStage (s : State) : s.handOff.linkStage = s.linkStage := rfl
@[simp] theorem State.handOff_reqs (s : State) : s.handOff.reqs = s.reqs := rfl
@[simp] theorem State.handOff_env (s : State) : s.handOff.env = s.env := rfl
@[simp] theorem State.handOff_resets (s : State) : s.handOff.resets = s.resets := rfl

@[simp] theorem State.handedOff_phase (s : State) (i : Instr) (f : List Byte) : (s.handedOff i f).phase = .sending := rfl
@[simp] theorem State.handedOff_buf (s : State) (i : Instr) (f : List Byte) : (s.handedOff i f).buf = s.buf.setAll 0 f := rfl
@[simp] theorem State.handedOff_wp (s : State) (i : Instr) (f : List Byte) : (s.handedOff i f).wp = f.length := rfl
@[simp] theorem State.handedOff_chk (s : State) (i : Instr) (f : List Byte) : (s.handedOff i f).chk = xorAll f.dropLast := rfl
@[simp] theorem State.handedOff_flen (s : State) (i : Instr) (f : List Byte) : (s.handedOff i f).flen = BitVec.ofNat 16 f.length := rfl
@[simp] theorem State.handedOff_txi (s : State) (i : Instr) (f : List Byte) : (s.handedOff i f).txi = 0 := rfl
@[simp] theorem State.handedOff_cur (s : State) (i : Instr) (f : List Byte) : (s.handedOff i f).cur = some i := rfl
@[simp] theorem State.handedOff_txlog (s : State) (i : Instr) (f : List Byte) : (s.handedOff i f).txlog = s.txlog := rfl
@[simp] theorem State.handedOff_link (s : State) (i : Instr) (f : List Byte) : (s.handedOff i f).link = s.link := rfl
@[simp] theorem State.handedOff_rsp (s : State) (i : Instr) (f : List Byte) : (s.handedOff i f).rsp = s.rsp := rfl
@[simp] theorem State.handedOff_lineCfg (s : State) (i : Instr) (f : List Byte) : (s.handedOff i f).lineCfg = s.lineCfg := rfl
@[simp] theorem State.handedOff_cfg (s : State) (i : Instr) (f : List Byte) : (s.handedOff i f).cfg = s.cfg := rfl
@[simp] theorem State.handedOff_linkStage (s : State) (i : Instr) (f : List Byte) : (s.handedOff i f).linkStage = s.linkStage := rfl
@[simp] theorem State.handedOff_reqs (s : State) (i : Instr) (f : List Byte) : (s.handedOff i f).reqs = s.reqs := rfl
@[simp] theorem State.handedOff_env (s : State) (i : Instr) (f : List Byte) : (s.handedOff i f).env = s.env := rfl
@[simp] theorem State.handedOff_resets (s : State) (i : Instr) (f : List Byte) : (s.handedOff i f).resets = s.resets := rfl

@[simp] theorem State.applyLineCfg_phase (s : State) : s.applyLineCfg.phase = s.phase := rfl
@[simp] theorem State.applyLineCfg_buf (s : State) : s.applyLineCfg.buf = s.buf := rfl
@[simp] theorem State.applyLineCfg_wp (s : State) : s.applyLineCfg.wp = s.wp := rfl
@[simp] theorem State.applyLineCfg_chk (s : State) : s.applyLineCfg.chk = s.chk := rfl
@[simp] theorem State.applyLineCfg_flen (s : State) : s.applyLineCfg.flen = s.flen := rfl
@[simp] theorem State.applyLineCfg_txi (s : State) : s.applyLineCfg.txi = s.txi := rfl
@[simp] theorem State.applyLineCfg_cur (s : State) : s.applyLineCfg.cur = s.cur := rfl
@[simp] theorem State.applyLineCfg_txlog (s : State) : s.applyLineCfg.txlog = s.txlog := rfl
@[simp] theorem State.applyLineCfg_link (s : State) : s.applyLineCfg.link = s.link := rfl
@[simp] theorem State.applyLineCfg_rsp (s : State) : s.applyLineCfg.rsp = s.rsp := rfl
@[simp] theorem State.applyLineCfg_lineCfg (s : State) : s.applyLineCfg.lineCfg = lineCfgFixed := rfl
@[simp] theorem State.applyLineCfg_cfg (s : State) : s.applyLineCfg.cfg = s.cfg := rfl
@[simp] theorem State.applyLineCfg_linkStage (s : State) : s.applyLineCfg.linkStage = s.linkStage := rfl
@[simp] theorem State.applyLineCfg_reqs (s : State) : s.applyLineCfg.reqs = s.reqs := rfl
@[simp] theorem State.applyLineCfg_env (s : State) : s.applyLineCfg.env = s.env := rfl
@[simp] theorem State.applyLineCfg_resets (s : State) : s.applyLineCfg.resets = s.resets := rfl

@[simp] theorem State.failLinkUp_phase (s : State) (k : Fin 4) : (s.failLinkUp k).phase = .idle := rfl
@[simp] theorem State.failLinkUp_buf (s : State) (k : Fin 4) : (s.failLinkUp k).buf = s.buf := rfl
@[simp] theorem State.failLinkUp_wp (s : State) (k : Fin 4) : (s.failLinkUp k).wp = s.wp := rfl
@[simp] theorem State.failLinkUp_chk (s : State) (k : Fin 4) : (s.failLinkUp k).chk = s.chk := rfl
@[simp] theorem State.failLinkUp_flen (s : State) (k : Fin 4) : (s.failLinkUp k).flen = s.flen := rfl
@[simp] theorem State.failLinkUp_txi (s : State) (k : Fin 4) : (s.failLinkUp k).txi = s.txi := rfl
@[simp] theorem State.failLinkUp_cur (s : State) (k : Fin 4) : (s.failLinkUp k).cur = none := rfl
@[simp] theorem State.failLinkUp_txlog (s : State) (k : Fin 4) : (s.failLinkUp k).txlog = s.txlog := rfl
@[simp] theorem State.failLinkUp_link (s : State) (k : Fin 4) : (s.failLinkUp k).link = .down := rfl
@[simp] theorem State.failLinkUp_rsp (s : State) (k : Fin 4) : (s.failLinkUp k).rsp = some ⟨.deviceUnavailable, k⟩ := rfl
@[simp] theorem State.failLinkUp_lineCfg (s : State) (k : Fin 4) : (s.failLinkUp k).lineCfg = s.lineCfg := rfl
@[simp] theorem State.failLinkUp_cfg (s : State) (k : Fin 4) : (s.failLinkUp k).cfg = s.cfg := rfl
@[simp] theorem State.failLinkUp_linkStage (s : State) (k : Fin 4) : (s.failLinkUp k).linkStage = .notRunning := rfl
@[simp] theorem State.failLinkUp_reqs (s : State) (k : Fin 4) : (s.failLinkUp k).reqs = s.reqs := rfl
@[simp] theorem State.failLinkUp_env (s : State) (k : Fin 4) : (s.failLinkUp k).env = s.env := rfl
@[simp] theorem State.failLinkUp_resets (s : State) (k : Fin 4) : (s.failLinkUp k).resets = s.resets := rfl

@[simp] theorem State.resetMove_phase (s : State) : s.resetMove.phase = .idle := rfl
@[simp] theorem State.resetMove_buf (s : State) : s.resetMove.buf = [] := rfl
@[simp] theorem State.resetMove_wp (s : State) : s.resetMove.wp = Config.freeWp s.resets % (s.cfg.maxFrame + 1) := rfl
@[simp] theorem State.resetMove_chk (s : State) : s.resetMove.chk = Config.freeChk s.resets := rfl
@[simp] theorem State.resetMove_flen (s : State) : s.resetMove.flen = Config.freeFlen s.resets := rfl
@[simp] theorem State.resetMove_txi (s : State) : s.resetMove.txi = (Config.freeTxi s.resets).toNat := rfl
@[simp] theorem State.resetMove_cur (s : State) : s.resetMove.cur = none := rfl
@[simp] theorem State.resetMove_txlog (s : State) : s.resetMove.txlog = s.txlog := rfl
@[simp] theorem State.resetMove_link (s : State) : s.resetMove.link = .down := rfl
@[simp] theorem State.resetMove_rsp (s : State) : s.resetMove.rsp = none := rfl
@[simp] theorem State.resetMove_lineCfg (s : State) : s.resetMove.lineCfg = s.lineCfg := rfl
@[simp] theorem State.resetMove_cfg (s : State) : s.resetMove.cfg = s.cfg := rfl
@[simp] theorem State.resetMove_linkStage (s : State) : s.resetMove.linkStage = .notRunning := rfl
@[simp] theorem State.resetMove_reqs (s : State) : s.resetMove.reqs = s.reqs := rfl
@[simp] theorem State.resetMove_env (s : State) : s.resetMove.env = s.env := rfl
@[simp] theorem State.resetMove_resets (s : State) : s.resetMove.resets = s.resets + 1 := rfl

@[simp] theorem State.offerFirst_phase (s : State) (i : Instr) : (s.offerFirst i).phase = .idle := rfl
@[simp] theorem State.offerFirst_buf (s : State) (i : Instr) : (s.offerFirst i).buf = s.buf := rfl
@[simp] theorem State.offerFirst_wp (s : State) (i : Instr) : (s.offerFirst i).wp = s.wp := rfl
@[simp] theorem State.offerFirst_chk (s : State) (i : Instr) : (s.offerFirst i).chk = s.chk := rfl
@[simp] theorem State.offerFirst_flen (s : State) (i : Instr) : (s.offerFirst i).flen = s.flen := rfl
@[simp] theorem State.offerFirst_txi (s : State) (i : Instr) : (s.offerFirst i).txi = s.txi := rfl
@[simp] theorem State.offerFirst_cur (s : State) (i : Instr) : (s.offerFirst i).cur = none := rfl
@[simp] theorem State.offerFirst_txlog (s : State) (i : Instr) : (s.offerFirst i).txlog = s.txlog := rfl
@[simp] theorem State.offerFirst_link (s : State) (i : Instr) : (s.offerFirst i).link = s.link := rfl
@[simp] theorem State.offerFirst_rsp (s : State) (i : Instr) : (s.offerFirst i).rsp = s.rsp := rfl
@[simp] theorem State.offerFirst_lineCfg (s : State) (i : Instr) : (s.offerFirst i).lineCfg = s.lineCfg := rfl
@[simp] theorem State.offerFirst_cfg (s : State) (i : Instr) : (s.offerFirst i).cfg = s.cfg := rfl
@[simp] theorem State.offerFirst_linkStage (s : State) (i : Instr) : (s.offerFirst i).linkStage = .notRunning := rfl
@[simp] theorem State.offerFirst_reqs (s : State) (i : Instr) : (s.offerFirst i).reqs = .command i :: s.reqs := rfl
@[simp] theorem State.offerFirst_env (s : State) (i : Instr) : (s.offerFirst i).env = .takeRequest :: s.env := rfl
@[simp] theorem State.offerFirst_resets (s : State) (i : Instr) : (s.offerFirst i).resets = s.resets := rfl

@[simp] theorem State.reset_phase : State.reset.phase = .idle := rfl
@[simp] theorem State.reset_buf : State.reset.buf = [] := rfl
@[simp] theorem State.reset_wp : State.reset.wp = 0 := rfl
@[simp] theorem State.reset_chk : State.reset.chk = 0x00 := rfl
@[simp] theorem State.reset_flen : State.reset.flen = 0 := rfl
@[simp] theorem State.reset_txi : State.reset.txi = 0 := rfl
@[simp] theorem State.reset_cur : State.reset.cur = none := rfl
@[simp] theorem State.reset_txlog : State.reset.txlog = [] := rfl
@[simp] theorem State.reset_link : State.reset.link = .down := rfl
@[simp] theorem State.reset_rsp : State.reset.rsp = none := rfl
@[simp] theorem State.reset_lineCfg : State.reset.lineCfg = lineCfgFixed := rfl
@[simp] theorem State.reset_cfg : State.reset.cfg = Config.reference := rfl
@[simp] theorem State.reset_linkStage : State.reset.linkStage = .notRunning := rfl
@[simp] theorem State.reset_reqs : State.reset.reqs = [] := rfl
@[simp] theorem State.reset_env : State.reset.env = [] := rfl
@[simp] theorem State.reset_resets : State.reset.resets = 0 := rfl

/-- The port is ready exactly when nothing is in progress (R36, R200). -/
theorem State.portReady_iff (s : State) :
    s.portReady = true ↔ s.phase = .idle ∧ s.cur = none ∧ s.linkStage = .notRunning := by
  simp [State.portReady, and_assoc]

/-- A response given to a ready block changes only `rsp`. -/
theorem State.respond_of_ready (s : State) (c : Status) (k : Fin 4) (h : s.portReady = true) :
    s.respond c k = { s with rsp := some ⟨c, k⟩ } := by
  obtain ⟨h1, h2, -⟩ := s.portReady_iff.mp h
  simp [State.respond, ← h1, ← h2]

end Sys2Proof.Machine
end

