-- ==== Sys2Proof/Laws/Build.lean ====
section
/-! SUPPORT. What the frame build does, said once for each shared operation: the buffer primitives, the build, Execute,
and a command at the port. -/

namespace Sys2Proof.Machine

@[simp] theorem andThen_next (s : State) (f : State → Host.Outcome State Fault Refusal) :
    andThen (.next s) f = f s := rfl

/-- Appends that fit all go through: consecutive bytes, the write pointer past them, the checksum folded. -/
theorem State.appendAll_eq (bs : List Byte) (s : State) (h : s.wp + bs.length ≤ s.cfg.maxFrame) :
    s.appendAll bs = .next { s with buf := s.buf.setAll s.wp bs, wp := s.wp + bs.length,
                                    chk := bs.foldl chkFold s.chk } := by
  induction bs generalizing s with
  | nil => rfl
  | cons b bs ih =>
    simp only [List.length_cons] at h
    have hs : s.append b = .next { s with buf := s.buf.set s.wp b, wp := s.wp + 1, chk := chkFold s.chk b } := by
      simp [State.append, State.storeByte, show s.wp < s.cfg.maxFrame by omega]
    rw [State.appendAll, hs, andThen_next, ih _ (by simp only; omega)]
    simp only [Memory.setAll_cons, List.length_cons, List.foldl_cons, Host.Outcome.next.injEq, State.mk.injEq, true_and,
      and_true]
    omega

@[simp] theorem length_frameBody (op : Byte) (p : List Byte) : (frameBody op p).length = 8 + p.length := by
  simp [frameBody, trailer]; omega

@[simp] theorem length_frameOf (op : Byte) (p : List Byte) : (frameOf op p).length = frameLength p.length := by
  simp [frameOf, frameLength]; omega

@[simp] theorem dropLast_frameOf (op : Byte) (p : List Byte) : (frameOf op p).dropLast = frameBody op p := by
  simp [frameOf]

@[simp] theorem length_encode (m : OpcodeMap) (i : Instr) : (encode m i).length = frameLength (payload i).length :=
  length_frameOf _ _

/-- The build of R94 to R96 leaves exactly the frame of R102 in the buffer. -/
theorem State.buildFrame_eq (op : Byte) (p : List Byte) (s : State) (h : frameLength p.length ≤ s.cfg.maxFrame) :
    s.buildFrame op p (frameLength p.length) =
      .next { s with flen := BitVec.ofNat 16 (frameOf op p).length, wp := (frameOf op p).length,
                     chk := xorAll (frameOf op p).dropLast, buf := s.buf.setAll 0 (frameOf op p),
                     phase := .sending, txi := 0 } := by
  have hn : frameLength p.length = p.length + 9 := by simp [frameLength]; omega
  unfold State.buildFrame
  rw [State.appendAll_eq _ _ (by simp; omega), andThen_next, State.appendAll_eq _ _ (by simp; omega), andThen_next,
    State.appendAll_eq _ _ (by simp [trailer]; omega), andThen_next]
  simp only [State.appendRaw, State.storeByte]
  rw [if_pos (by simp [trailer]; omega), andThen_next]
  have hx : xorAll (frameBody op p) =
      trailer.foldl chkFold (p.foldl chkFold (xorAll [0xA5, hiByte (BitVec.ofNat 16 (frameLength p.length)),
        loByte (BitVec.ofNat 16 (frameLength p.length)), op])) := by
    simp only [foldl_chkFold, frameBody, xorAll_append]
  have hb : ∀ m : Memory, m.setAll 0 (frameOf op p) =
      ((((m.setAll 0 [0xA5, hiByte (BitVec.ofNat 16 (frameLength p.length)),
        loByte (BitVec.ofNat 16 (frameLength p.length)), op]).setAll 4 p).setAll (4 + p.length) trailer).set
          (4 + p.length + 4) (xorAll (frameBody op p))) := by
    intro m
    rw [frameOf, Memory.setAll_append, frameBody, Memory.setAll_append, Memory.setAll_append]
    have h4 : 4 + p.length = p.length + 4 := by omega
    simp [trailer, Memory.setAll_cons, h4]
  rw [dropLast_frameOf, hb, length_frameOf, hx]
  simp [State.startBuild, State.handOff, trailer, xorAll]
  omega

/-- Execute in one equation (R90, R207): which of the three ends it takes, and what it leaves. -/
theorem execute_eq (i : Instr) (p : List Byte) (s : State) :
    execute i p s =
      if s.link ≠ .up then .next (s.respond .deviceUnavailable 0)
      else if s.cfg.maxFrame < frameLength p.length then .next (s.respond .payloadTooLarge 0)
      else .next (s.handedOff i (frameOf (s.cfg.opcodes.opcode i.kind) p)) := by
  unfold execute
  by_cases h1 : s.link = .up
  · by_cases h2 : s.cfg.maxFrame < frameLength p.length
    · simp [h1, h2, State.raiseError, State.respond]
    · simp only [h1, h2, if_false, ne_eq, not_true_eq_false]
      rw [State.buildFrame_eq _ _ _ (by simpa using h2)]
      simp [State.handedOff, h1]
  · simp [h1, State.raiseError, State.respond]

/-- A command at the port, in one equation. -/
theorem runCommand_eq (i : Instr) (p : List Byte) (s : State) :
    runCommand i p s =
      if s.portReady = true ∧ i.wellFormed = true then
        if s.link ≠ .up then .next { s with rsp := some ⟨.deviceUnavailable, 0⟩ }
        else if s.cfg.maxFrame < frameLength p.length then .next { s with rsp := some ⟨.payloadTooLarge, 0⟩ }
        else .next (s.handedOff i (frameOf (s.cfg.opcodes.opcode i.kind) p))
      else .next s := by
  unfold runCommand
  by_cases h : s.portReady = true ∧ i.wellFormed = true
  · rw [if_pos (by simp [h]), if_pos h, execute_eq, State.respond_of_ready _ _ _ h.1, State.respond_of_ready _ _ _ h.1]
  · rw [if_neg (by simpa using h), if_neg h]

/-- No command at the port faults or is refused by the model. -/
theorem runCommand_next (i : Instr) (p : List Byte) (s : State) : ∃ t, runCommand i p s = .next t := by
  rw [runCommand_eq]
  split
  · split
    · exact ⟨_, rfl⟩
    · split <;> exact ⟨_, rfl⟩
  · exact ⟨_, rfl⟩

/-- Every arm of exec offers its command with the payload of the encoder. -/
theorem exec_eq_runCommand (i : Instr) (s : State) : exec i s = runCommand i (payload i) s := by
  cases i <;> rfl

end Sys2Proof.Machine
end

