-- ==== Sys2Proof/Laws/PerInstr.lean ====
section
/-! SUPPORT. Statements made per instruction. PayloadShape: a command's payload has the length its format gives it
(30_encoding.md R64 to R69, R73). -/

namespace Sys2Proof.Laws.PayloadShape

/-- The payload length P of the command's format, with L the length of its text. -/
def Statement (i : Instr) : Prop :=
  (payload i).length = Machine.payloadLength i.text.length (Machine.formatOf i.kind)

theorem handshake : Statement .handshake := rfl

theorem setBaud (baud : Int) : Statement (.setBaud baud) := rfl

theorem readBaud : Statement .readBaud := rfl

theorem memoryMode (mode : Int) : Statement (.memoryMode mode) := rfl

theorem stopMode : Statement .stopMode := rfl

theorem update : Statement .update := rfl

theorem screenRotation (rot : Int) : Statement (.screenRotation rot) := rfl

theorem loadFont : Statement .loadFont := rfl

theorem loadPicture : Statement .loadPicture := rfl

theorem setColor (fg bg : Int) : Statement (.setColor fg bg) := rfl

theorem setEnFont (font : Int) : Statement (.setEnFont font) := rfl

theorem setChFont (font : Int) : Statement (.setChFont font) := rfl

theorem drawPixel (x y : Int) : Statement (.drawPixel x y) := rfl

theorem drawLine (x0 y0 x1 y1 : Int) : Statement (.drawLine x0 y0 x1 y1) := rfl

theorem fillRect (x0 y0 x1 y1 : Int) : Statement (.fillRect x0 y0 x1 y1) := rfl

theorem drawCircle (x0 y0 r : Int) : Statement (.drawCircle x0 y0 r) := rfl

theorem fillCircle (x0 y0 r : Int) : Statement (.fillCircle x0 y0 r) := rfl

theorem drawTriangle (x0 y0 x1 y1 x2 y2 : Int) : Statement (.drawTriangle x0 y0 x1 y1 x2 y2) := rfl

theorem fillTriangle (x0 y0 x1 y1 x2 y2 : Int) : Statement (.fillTriangle x0 y0 x1 y1 x2 y2) := rfl

theorem clear : Statement .clear := rfl

theorem drawString (text : List Byte) (x0 y0 : Int) : Statement (.drawString text x0 y0) := by
  simp [Statement, payload, Machine.payloadS, Machine.payloadC, Instr.text, Instr.kind, Machine.formatOf, Machine.payloadLength]
  omega

theorem drawBitmap (path : List Byte) (x0 y0 : Int) : Statement (.drawBitmap path x0 y0) := by
  simp [Statement, payload, Machine.payloadS, Machine.payloadC, Instr.text, Instr.kind, Machine.formatOf, Machine.payloadLength]
  omega

end Sys2Proof.Laws.PayloadShape
end

