-- ==== Sys2Proof/Laws/Decode.lean ====
section
/-! SUPPORT. Small facts of the encoding: bytes of 16- and 32-bit fields, the opcode map read backwards, payload
lengths. -/

namespace Sys2Proof

open Machine

/-- A 16-bit value is its two bytes, high byte first (R41). -/
theorem hiByte_append_loByte (v : BitVec 16) : hiByte v ++ loByte v = v := by
  apply BitVec.eq_of_toNat_eq
  simp only [hiByte, loByte, BitVec.toNat_append, BitVec.extractLsb'_toNat, Nat.shiftRight_eq_div_pow]
  have := v.isLt
  rw [← Nat.shiftLeft_add_eq_or_of_lt (by omega), Nat.shiftLeft_eq]
  omega

/-- A length that fits the field is read back from its two bytes (R62). -/
theorem lengthField_toNat (n : Nat) (h : n ≤ 65535) :
    (hiByte (BitVec.ofNat 16 n)).toNat * 256 + (loByte (BitVec.ofNat 16 n)).toNat = n := by
  simp [hiByte, loByte, BitVec.extractLsb'_toNat, Nat.shiftRight_eq_div_pow]
  omega

/-- The two bytes of a length field that reads n (R62). -/
theorem lengthField_bytes (h l : Byte) (n : Nat) (e : h.toNat * 256 + l.toNat = n) :
    hiByte (BitVec.ofNat 16 n) = h ∧ loByte (BitVec.ofNat 16 n) = l := by
  have h1 := h.isLt
  have h2 := l.isLt
  constructor <;> apply BitVec.eq_of_toNat_eq <;>
    simp only [hiByte, loByte, BitVec.extractLsb'_toNat, Nat.shiftRight_eq_div_pow, BitVec.toNat_ofNat] <;> omega

/-- A coordinate read back from its own two bytes is its signed low half (R71). -/
theorem coordOf_hi_lo (v : Int) : coordOf (hi v) (lo v) = (u16 v).toInt := by
  simp [coordOf, hi, lo, hiByte_append_loByte]

/-- Two bytes read as a coordinate are sent as those two bytes. -/
theorem hi_lo_coordOf (a b : Byte) : hi (coordOf a b) = a ∧ lo (coordOf a b) = b := by
  simp only [hi, lo, u16, coordOf, BitVec.ofInt_toInt]
  have ha := a.isLt
  have hb := b.isLt
  constructor <;> apply BitVec.eq_of_toNat_eq <;>
    simp only [hiByte, loByte, BitVec.extractLsb'_toNat, Nat.shiftRight_eq_div_pow, BitVec.toNat_append] <;>
    rw [← Nat.shiftLeft_add_eq_or_of_lt hb, Nat.shiftLeft_eq] <;> omega

/-- A 32-bit value is its four bytes, most significant first (R69). -/
theorem word_of_bytes (w : BitVec 32) :
    w.extractLsb' 24 8 ++ w.extractLsb' 16 8 ++ w.extractLsb' 8 8 ++ w.extractLsb' 0 8 = w := by
  rw [BitVec.extractLsb'_append_extractLsb'_eq_extractLsb' (by rfl),
    BitVec.extractLsb'_append_extractLsb'_eq_extractLsb' (by rfl),
    BitVec.extractLsb'_append_extractLsb'_eq_extractLsb' (by rfl)]
  simp

theorem Kind.mem_all (k : Kind) : k ∈ Kind.all := by
  cases k <;> decide

theorem Kind.nodup_all : Kind.all.Nodup := by decide

theorem Kind.filter_all (k : Kind) : Kind.all.filter (fun k' => k' == k) = [k] := by
  cases k <;> decide

/-- An opcode byte stands for a kind exactly when it is that kind's opcode and no other's (R75). -/
theorem OpcodeMap.kindOf_eq_some {m : OpcodeMap} {op : Byte} {k : Kind} :
    m.kindOf op = some k ↔ ∀ k', m.opcode k' = op ↔ k' = k := by
  have key : m.kindOf op = some k ↔ Kind.all.filter (fun k => m.opcode k == op) = [k] := by
    unfold OpcodeMap.kindOf
    split
    · rename_i k' h
      rw [h]
      simp
    · rename_i h
      simp only [reduceCtorEq, false_iff]
      exact h k
  rw [key]
  constructor
  · intro h k'
    have : k' ∈ Kind.all.filter (fun k => m.opcode k == op) ↔ k' ∈ [k] := by rw [h]
    simpa [Kind.mem_all] using this
  · intro h
    rw [← Kind.filter_all k]
    apply List.filter_congr
    intro a _
    rw [Bool.eq_iff_iff]
    simpa using h a

/-- Under an injective map every opcode stands for its own kind (R70). -/
theorem OpcodeMap.kindOf_opcode {m : OpcodeMap} (h : m.Ok) (k : Kind) : m.kindOf (m.opcode k) = some k := by
  rw [OpcodeMap.kindOf_eq_some]
  intro k'
  exact ⟨fun e => List.inj_on_of_nodup_map h.1 (Kind.mem_all k') (Kind.mem_all k) e, fun e => by rw [e]⟩

/-- The default map of R70 meets the constraints of R70. -/
theorem OpcodeMap.table_ok : OpcodeMap.table.Ok := by decide

/-- The reference parameters meet the constraints of R7. -/
theorem Config.reference_ok : Config.reference.Ok := by decide

/-- The payload length P of every command (R64 to R69). -/
theorem length_payload (i : Instr) : (payload i).length = payloadLength i.text.length (formatOf i.kind) := by
  cases i with
  | drawString t x y => exact Laws.PayloadShape.drawString t x y
  | drawBitmap t x y => exact Laws.PayloadShape.drawBitmap t x y
  | _ => rfl

/-- Seen on the wire or not, a command is of the same kind. -/
@[simp] theorem Instr.kind_onWire (i : Instr) : i.onWire.kind = i.kind := by
  cases i <;> rfl

end Sys2Proof
end

