-- ==== Sys2Proof/Laws/Moves.lean ====
section
/-! SUPPORT. What one move of the outside can do, said once for each: "if it answers next t, then one of these cases
holds". -/

namespace Sys2Proof.Machine

variable {s t : State}

/-- What exec can do (R90, R202, R205): nothing, one of the two early errors, or the whole frame handed off. -/
theorem exec_cases {i : Instr} (h : exec i s = .next t) :
    (t = s ∧ ¬(s.portReady = true ∧ i.wellFormed = true)) ∨
    (s.portReady = true ∧ i.wellFormed = true ∧
      ((s.link ≠ .up ∧ t = { s with rsp := some ⟨.deviceUnavailable, 0⟩ }) ∨
       (s.link = .up ∧ s.cfg.maxFrame < (encode s.cfg.opcodes i).length ∧
          t = { s with rsp := some ⟨.payloadTooLarge, 0⟩ }) ∨
       (s.link = .up ∧ (encode s.cfg.opcodes i).length ≤ s.cfg.maxFrame ∧
          t = s.handedOff i (encode s.cfg.opcodes i)))) := by
  rw [exec_eq_runCommand, runCommand_eq] at h
  rw [length_encode]
  split at h
  · rename_i hr
    refine .inr ⟨hr.1, hr.2, ?_⟩
    split at h
    · exact .inl ⟨‹_›, (Host.Outcome.next.inj h).symm⟩
    · rename_i hl
      have hl : s.link = .up := by simpa using hl
      split at h
      · exact .inr (.inl ⟨hl, ‹_›, (Host.Outcome.next.inj h).symm⟩)
      · exact .inr (.inr ⟨hl, by omega, (Host.Outcome.next.inj h).symm⟩)
  · exact .inl ⟨(Host.Outcome.next.inj h).symm, ‹_›⟩

/-- exec answers a next state, always. -/
theorem exec_next (i : Instr) (s : State) : ∃ t, exec i s = .next t := by
  rw [exec_eq_runCommand]
  exact runCommand_next i _ s

/-- What link-up at the port can do (R172). -/
theorem execLinkUp_cases (h : execLinkUp s = .next t) :
    (t = s ∧ ¬(s.portReady = true ∧ s.link = .down)) ∨
    (s.portReady = true ∧ s.link = .down ∧ t = { s with linkStage := .opening }) := by
  unfold execLinkUp at h
  split at h
  · rename_i hc
    simp only [Bool.and_eq_true, decide_eq_true_eq] at hc
    exact .inr ⟨hc.1, hc.2, (Host.Outcome.next.inj h).symm⟩
  · rename_i hc
    exact .inl ⟨(Host.Outcome.next.inj h).symm, by simpa using hc⟩

theorem execLinkUp_next (s : State) : ∃ t, execLinkUp s = .next t := by
  unfold execLinkUp
  split <;> exact ⟨_, rfl⟩

/-- What close at the port can do (R174). -/
theorem execClose_cases (h : execClose s = .next t) :
    (t = s ∧ s.portReady = false) ∨
    (s.portReady = true ∧ t = { s with link := .down, rsp := some ⟨.ok, 0⟩ }) := by
  unfold execClose at h
  split at h
  · rename_i hc
    refine .inr ⟨hc, ?_⟩
    obtain ⟨h1, h2, -⟩ := s.portReady_iff.mp hc
    rw [← Host.Outcome.next.inj h]
    simp [State.respond, ← h1, ← h2]
  · rename_i hc
    exact .inl ⟨(Host.Outcome.next.inj h).symm, by simpa using hc⟩

theorem execClose_next (s : State) : ∃ t, execClose s = .next t := by
  unfold execClose
  split <;> exact ⟨_, rfl⟩

/-- What the port's turn can do (R36, R234): nothing, or one request leaves the queue and runs. -/
theorem takeRequest_cases (h : takeRequest s = .next t) :
    (t = s ∧ (s.reqs = [] ∨ s.portReady = false)) ∨
    (∃ r rs, s.reqs = r :: rs ∧ s.portReady = true ∧ runRequest r { s with reqs := rs } = .next t) := by
  unfold takeRequest at h
  split at h
  · rename_i he
    exact .inl ⟨(Host.Outcome.next.inj h).symm, .inl he⟩
  · rename_i r rs he
    split at h
    · exact .inr ⟨r, rs, he, ‹_›, h⟩
    · rename_i hc
      exact .inl ⟨(Host.Outcome.next.inj h).symm, .inr (by simpa using hc)⟩

/-- A ready port takes the oldest request. -/
theorem takeRequest_of_ready {r : Request} {rs : List Request} (hq : s.reqs = r :: rs) (hr : s.portReady = true) :
    takeRequest s = runRequest r { s with reqs := rs } := by
  unfold takeRequest
  split <;> simp_all

/-- A port that is not ready takes nothing. -/
theorem takeRequest_of_busy (hr : s.portReady = false) : takeRequest s = .next s := by
  unfold takeRequest
  split <;> simp [hr]

theorem takeRequest_next (s : State) : ∃ t, takeRequest s = .next t := by
  unfold takeRequest
  split
  · exact ⟨_, rfl⟩
  · split
    · rename_i r rs _ _
      cases r with
      | command i => exact exec_next i _
      | linkUp => exact execLinkUp_next _
      | close => exact execClose_next _
    · exact ⟨_, rfl⟩

/-- What a byte acceptance can do (R177). -/
theorem acceptByte_cases (h : acceptByte s = .next t) :
    (t = s ∧ ¬(s.phase = .sending ∧ s.txi < s.flen.toNat)) ∨
    (∃ b, s.phase = .sending ∧ s.txi < s.flen.toNat ∧ s.buf.get s.txi = some b ∧
      t = { s with txlog := s.txlog ++ [b], txi := s.txi + 1 }) := by
  unfold acceptByte at h
  split at h
  · rename_i hc
    split at h
    · rename_i b hb
      exact .inr ⟨b, hc.1, hc.2, hb, (Host.Outcome.next.inj h).symm⟩
    · cases h
  · exact .inl ⟨(Host.Outcome.next.inj h).symm, ‹_›⟩

/-- What the end of a write can do (R178). -/
theorem endWrite_cases {r : WriteResult} (h : endWrite r s = .next t) :
    (t = s ∧ ¬(s.phase = .sending ∧ r.allowed s = true)) ∨
    (s.phase = .sending ∧ r.allowed s = true ∧ t = s.respond r.status 0) := by
  unfold endWrite at h
  split at h
  · rename_i hc
    exact .inr ⟨hc.1, hc.2, (Host.Outcome.next.inj h).symm⟩
  · exact .inl ⟨(Host.Outcome.next.inj h).symm, ‹_›⟩

theorem endWrite_next (r : WriteResult) (s : State) : ∃ t, endWrite r s = .next t := by
  unfold endWrite
  split <;> exact ⟨_, rfl⟩

/-- What the answer to open can do (R172). -/
theorem answerOpen_cases {r : OpenResult} (h : answerOpen r s = .next t) :
    (t = s ∧ s.linkStage ≠ .opening) ∨
    (s.linkStage = .opening ∧ r = .ok ∧ t = { s with linkStage := .configuring }) ∨
    (s.linkStage = .opening ∧ r ≠ .ok ∧ t = s.failLinkUp r.subcause) := by
  unfold answerOpen at h
  split at h
  · exact .inl ⟨(Host.Outcome.next.inj h).symm, ‹_›⟩
  · rename_i hc
    have hc : s.linkStage = .opening := by simpa using hc
    split at h
    · exact .inr (.inl ⟨hc, ‹_›, (Host.Outcome.next.inj h).symm⟩)
    · exact .inr (.inr ⟨hc, ‹_›, (Host.Outcome.next.inj h).symm⟩)

theorem answerOpen_next (r : OpenResult) (s : State) : ∃ t, answerOpen r s = .next t := by
  unfold answerOpen
  split
  · exact ⟨_, rfl⟩
  · split <;> exact ⟨_, rfl⟩

/-- What the answer to configure can do (R172). -/
theorem answerConfigure_cases {r : ConfigureResult} (h : answerConfigure r s = .next t) :
    (t = s ∧ s.linkStage ≠ .configuring) ∨
    (s.linkStage = .configuring ∧ r = .ok ∧
      t = { s with linkStage := .notRunning, link := .up, lineCfg := lineCfgFixed, rsp := some ⟨.ok, 0⟩, cur := none,
                   phase := .idle }) ∨
    (s.linkStage = .configuring ∧ r ≠ .ok ∧ t = s.failLinkUp 3) := by
  unfold answerConfigure at h
  split at h
  · exact .inl ⟨(Host.Outcome.next.inj h).symm, ‹_›⟩
  · rename_i hc
    have hc : s.linkStage = .configuring := by simpa using hc
    split at h
    · exact .inr (.inl ⟨hc, ‹_›, (Host.Outcome.next.inj h).symm⟩)
    · exact .inr (.inr ⟨hc, ‹_›, (Host.Outcome.next.inj h).symm⟩)

theorem answerConfigure_next (r : ConfigureResult) (s : State) : ∃ t, answerConfigure r s = .next t := by
  unfold answerConfigure
  split
  · exact ⟨_, rfl⟩
  · split <;> exact ⟨_, rfl⟩

/-- The only move that can stop the model is a byte acceptance, and only at a buffer byte nothing has written. -/
theorem runMove_next (m : Move) (s : State)
    (h : m = .acceptByte → s.phase = .sending → s.txi < s.flen.toNat → ∃ b, s.buf.get s.txi = some b) :
    ∃ t, runMove m s = .next t := by
  cases m with
  | takeRequest => exact takeRequest_next s
  | acceptByte =>
    change ∃ t, acceptByte s = .next t
    by_cases hc : s.phase = .sending ∧ s.txi < s.flen.toNat
    · obtain ⟨b, hb⟩ := h rfl hc.1 hc.2
      exact ⟨{ s with txlog := s.txlog ++ [b], txi := s.txi + 1 }, by simp [acceptByte, hc, hb]⟩
    · exact ⟨s, by simp [acceptByte, hc]⟩
  | endWrite r => exact endWrite_next r s
  | answerOpen r => exact answerOpen_next r s
  | answerConfigure r => exact answerConfigure_next r s
  | assertReset => exact ⟨_, rfl⟩

/-- A step is the next move, with the moves after it left (log 6). -/
theorem step_of_move (m : Move) (ms : List Move) (h : s.env = m :: ms) : step s = runMove m { s with env := ms } := by
  simp [step, h]

/-- With no move left nothing happens. -/
theorem step_of_no_move (h : s.env = []) : step s = .next s := by
  simp [step, h]

end Sys2Proof.Machine
end

