-- ==== Sys2Proof/Laws/Run.lean ====
section
/-! SUPPORT. Steps in sequence, and what the predicates of Safety.lean do not look at. -/

namespace Sys2Proof.Machine

/-- A step first, then k more. -/
theorem run_succ_of_step (k : Nat) {s t u : State} (h : step s = .next t) (hu : Host.Core.run core k t = .next u) :
    Host.Core.run core (k + 1) s = .next u := by
  simp only [Host.Core.run, core]
  rw [h]
  exact hu

/-- What a run of k + 1 steps is made of. -/
theorem run_succ_inv {k : Nat} {s u : State} (h : Host.Core.run core (k + 1) s = .next u) :
    ∃ t, step s = .next t ∧ Host.Core.run core k t = .next u := by
  simp only [Host.Core.run, core] at h
  cases hs : step s with
  | next t =>
    rw [hs] at h
    exact ⟨t, rfl, h⟩
  | fault r =>
    rw [hs] at h
    cases h
  | refused r =>
    rw [hs] at h
    cases h

/-- Two runs in sequence. -/
theorem run_add {j k : Nat} {s t u : State} (h : Host.Core.run core j s = .next t)
    (hu : Host.Core.run core k t = .next u) : Host.Core.run core (j + k) s = .next u := by
  induction j generalizing s with
  | zero =>
    cases h
    simpa using hu
  | succ j ih =>
    obtain ⟨v, hv, h⟩ := run_succ_inv h
    rw [show j + 1 + k = j + k + 1 by omega]
    exact run_succ_of_step _ hv (ih h)

/-- What a step is: nothing, or the next move. -/
theorem step_cases {s t : State} (h : step s = .next t) :
    t = s ∨ ∃ m ms, s.env = m :: ms ∧ runMove m { s with env := ms } = .next t := by
  cases he : s.env with
  | nil =>
    rw [step_of_no_move he] at h
    exact .inl (Host.Outcome.next.inj h).symm
  | cons m ms =>
    rw [step_of_move _ _ he] at h
    exact .inr ⟨m, ms, rfl, h⟩

/-- A frame in flight does not depend on the coming moves or on the waiting requests. -/
theorem InFlight.withInputs {base : List Byte} {c : Instr} {s : State} (h : InFlight base c s) (rs : List Request)
    (ms : List Move) : InFlight base c { s with reqs := rs, env := ms } :=
  ⟨h.1, h.2, h.3, h.4, h.5, h.6, h.7, h.8, h.9, h.10, h.11, h.12⟩

/-- A good state does not depend on the coming moves or on the waiting requests. -/
theorem Good.withInputs {s : State} (h : Good s) (rs : List Request) (ms : List Move) :
    Good { s with reqs := rs, env := ms } :=
  ⟨h.1, h.2, h.3, h.4, h.5, h.6, h.7,
    h.8.imp (fun a => ⟨a.1, a.2, a.3⟩) fun ⟨b, c, a⟩ => ⟨b, c, a.withInputs rs ms⟩⟩

/-- A block whose port is ready is at rest. -/
theorem AtRest.of_ready {s : State} (h : s.portReady = true) : AtRest s := by
  obtain ⟨h1, h2, h3⟩ := s.portReady_iff.mp h
  exact ⟨h1, h2, fun hs => absurd h3 hs⟩

/-- While a frame is in flight the port is not ready. -/
theorem InFlight.not_ready {base : List Byte} {c : Instr} {s : State} (h : InFlight base c s) :
    s.portReady = false := by
  simp [State.portReady, h.phase_sending]

end Sys2Proof.Machine
end

