-- ==== Sys2Proof/Tests/Slice0.lean ====
section
/-! SUPPORT. The model's own tests. Expected results come from spec/95_test_vectors.md, whose vector a comment names, or
from a rule. The last part has one witness per obligation: a state and operands that meet its hypotheses. -/

namespace Sys2Proof.Tests

open Sys2Proof.Machine

/-! ### Small states -/

/-- Power-on with the link Up. -/
def upState : State := { State.reset with link := .up }

/-- The same, at the smallest MAX_FRAME. -/
def smallState : State := { upState with cfg := ⟨21, OpcodeMap.table⟩ }

/-- A state with one request offered and the outside's coming moves. -/
def offered (s : State) (r : Request) (ms : List Move) : State := { s with reqs := [r], env := ms }

/-- The frame of clear (L1.2). -/
def clearFrame : List Byte := [0xA5, 0x00, 0x09, 0x2E, 0xCC, 0x33, 0xC3, 0x3C, 0x82]

/-- Clear in flight with k bytes taken, every field written out. -/
def clearInFlight (k : Nat) : State :=
  { upState with
    phase := .sending
    cur := some .clear
    buf := [(0, 0xA5), (1, 0x00), (2, 0x09), (3, 0x2E), (4, 0xCC), (5, 0x33), (6, 0xC3), (7, 0x3C), (8, 0x82)]
    wp := 9
    chk := 0x82
    flen := 9
    txi := k
    txlog := clearFrame.take k }

/-! ### What a test looks at -/

/-- The byte sequence decodes to the command, under the default map. -/
def decodesTo (f : List Byte) (i : Instr) : Bool :=
  match decode OpcodeMap.table f with
  | .ok j => decide (j = i)
  | .error _ => false

/-- The byte sequence is rejected for this reason. -/
def rejectedFor (f : List Byte) (e : DecodeError) : Bool :=
  match decode OpcodeMap.table f with
  | .ok _ => false
  | .error d => decide (d = e)

/-- Sent on the link, the command puts this frame in the buffer and hands it off. -/
def sends (i : Instr) (f : List Byte) : Bool :=
  match exec i upState with
  | .next t => decide (t.frameBytes = f.map some ∧ t.phase = .sending ∧ t.txi = 0 ∧ t.cur = some i ∧ t.txlog = [])
  | .fault _ => false
  | .refused _ => false

/-- The outcome is a next state with the property. -/
def nextHas (o : Host.Outcome State Fault Refusal) (p : State → Bool) : Bool :=
  match o with
  | .next t => p t
  | .fault _ => false
  | .refused _ => false

/-! ### Well-formedness (R78): one ill-formed term per check -/

theorem test_wfByte_refuses_256 : (Instr.setColor 0 256).passes .wfByte = false := by decide
theorem test_wfByte_refuses_negative : (Instr.screenRotation (-1)).passes .wfByte = false := by decide
theorem test_wfCoord_refuses_above_s32 : (Instr.drawPixel 0 2147483648).passes .wfCoord = false := by decide
theorem test_wfCoord_refuses_below_s32 : (Instr.drawCircle 0 0 (-2147483649)).passes .wfCoord = false := by decide
theorem test_wfWord_refuses_above_u32 : (Instr.setBaud 4294967296).passes .wfWord = false := by decide
theorem test_wfWord_refuses_negative : (Instr.setBaud (-1)).passes .wfWord = false := by decide
/-- V16, corner case. -/
theorem test_wfCstr_refuses_inner_nul : (Instr.drawString [0x48, 0x00, 0x69] 0 0).passes .wfCstr = false := by decide
theorem test_ill_formed_terms_are_refused :
    (Instr.setColor 0 256).wellFormed = false ∧ (Instr.drawPixel 0 2147483648).wellFormed = false ∧
    (Instr.setBaud 4294967296).wellFormed = false ∧ (Instr.drawBitmap [0x00] 0 0).wellFormed = false := by decide
theorem test_boundary_terms_are_well_formed :
    (Instr.setColor 0 255).wellFormed = true ∧ (Instr.drawPixel (-2147483648) 2147483647).wellFormed = true ∧
    (Instr.setBaud 4294967295).wellFormed = true ∧ (Instr.drawString [] 0 0).wellFormed = true := by decide

/-! ### Decoding: every constructor's frame, written out -/

/-- V10.1. -/
theorem test_decode_handshake :
    decodesTo [0xA5, 0x00, 0x09, 0x00, 0xCC, 0x33, 0xC3, 0x3C, 0xAC]
      (.handshake) = true := by decide

/-- V10.2. -/
theorem test_decode_setBaud :
    decodesTo [0xA5, 0x00, 0x0D, 0x01, 0x00, 0x01, 0xC2, 0x00, 0xCC, 0x33, 0xC3, 0x3C, 0x6A]
      (.setBaud 115200) = true := by decide

/-- V10.6. -/
theorem test_decode_readBaud :
    decodesTo [0xA5, 0x00, 0x09, 0x02, 0xCC, 0x33, 0xC3, 0x3C, 0xAE]
      (.readBaud) = true := by decide

/-- V10.8. -/
theorem test_decode_memoryMode :
    decodesTo [0xA5, 0x00, 0x0A, 0x07, 0x01, 0xCC, 0x33, 0xC3, 0x3C, 0xA9]
      (.memoryMode 1) = true := by decide

/-- V10.9. -/
theorem test_decode_stopMode :
    decodesTo [0xA5, 0x00, 0x09, 0x08, 0xCC, 0x33, 0xC3, 0x3C, 0xA4]
      (.stopMode) = true := by decide

/-- V10.10. -/
theorem test_decode_update :
    decodesTo [0xA5, 0x00, 0x09, 0x0A, 0xCC, 0x33, 0xC3, 0x3C, 0xA6]
      (.update) = true := by decide

/-- V10.12. -/
theorem test_decode_screenRotation :
    decodesTo [0xA5, 0x00, 0x0A, 0x0D, 0xFF, 0xCC, 0x33, 0xC3, 0x3C, 0x5D]
      (.screenRotation 255) = true := by decide

/-- V10.13. -/
theorem test_decode_loadFont :
    decodesTo [0xA5, 0x00, 0x09, 0x0E, 0xCC, 0x33, 0xC3, 0x3C, 0xA2]
      (.loadFont) = true := by decide

/-- V10.14. -/
theorem test_decode_loadPicture :
    decodesTo [0xA5, 0x00, 0x09, 0x0F, 0xCC, 0x33, 0xC3, 0x3C, 0xA3]
      (.loadPicture) = true := by decide

/-- V11.2. -/
theorem test_decode_setColor :
    decodesTo [0xA5, 0x00, 0x0B, 0x10, 0xFF, 0x00, 0xCC, 0x33, 0xC3, 0x3C, 0x41]
      (.setColor 255 0) = true := by decide

/-- V11.3. -/
theorem test_decode_setEnFont :
    decodesTo [0xA5, 0x00, 0x0A, 0x1E, 0x01, 0xCC, 0x33, 0xC3, 0x3C, 0xB0]
      (.setEnFont 1) = true := by decide

/-- V11.4. -/
theorem test_decode_setChFont :
    decodesTo [0xA5, 0x00, 0x0A, 0x1F, 0x02, 0xCC, 0x33, 0xC3, 0x3C, 0xB2]
      (.setChFont 2) = true := by decide

/-- V13.4. -/
theorem test_decode_drawPixel :
    decodesTo [0xA5, 0x00, 0x0D, 0x20, 0x00, 0x00, 0x80, 0x00, 0xCC, 0x33, 0xC3, 0x3C, 0x08]
      (.drawPixel 0 (-32768)) = true := by decide

/-- V14.2. -/
theorem test_decode_drawLine :
    decodesTo [0xA5, 0x00, 0x11, 0x22, 0xFF, 0xFF, 0x00, 0x00, 0xFF, 0xFF, 0x11, 0x70, 0xCC, 0x33, 0xC3, 0x3C, 0xF7]
      (.drawLine (-1) 0 (-1) 4464) = true := by decide

/-- V14.3. -/
theorem test_decode_fillRect :
    decodesTo [0xA5, 0x00, 0x11, 0x24, 0x00, 0x0A, 0x00, 0x14, 0x01, 0x2C, 0x01, 0x90, 0xCC, 0x33, 0xC3, 0x3C, 0x32]
      (.fillRect 10 20 300 400) = true := by decide

/-- V14.4. -/
theorem test_decode_drawCircle :
    decodesTo [0xA5, 0x00, 0x0F, 0x26, 0x01, 0x90, 0x01, 0x2C, 0x00, 0x32, 0xCC, 0x33, 0xC3, 0x3C, 0x02]
      (.drawCircle 400 300 50) = true := by decide

/-- V14.6. -/
theorem test_decode_fillCircle :
    decodesTo [0xA5, 0x00, 0x0F, 0x27, 0xFF, 0xFF, 0xFF, 0xFF, 0xFF, 0xFF, 0xCC, 0x33, 0xC3, 0x3C, 0x8D]
      (.fillCircle (-1) (-1) (-1)) = true := by decide

/-- V14.7. -/
theorem test_decode_drawTriangle :
    decodesTo [0xA5, 0x00, 0x15, 0x28, 0x00, 0x00, 0x00, 0x00, 0x00, 0x64, 0x00, 0x00, 0x00, 0x32, 0x00, 0x50, 0xCC, 0x33, 0xC3, 0x3C, 0x9E]
      (.drawTriangle 0 0 100 0 50 80) = true := by decide

/-- V14.8. -/
theorem test_decode_fillTriangle :
    decodesTo [0xA5, 0x00, 0x15, 0x29, 0x01, 0x00, 0x01, 0x01, 0x01, 0x02, 0x01, 0x03, 0x01, 0x04, 0x01, 0x05, 0xCC, 0x33, 0xC3, 0x3C, 0x98]
      (.fillTriangle 256 257 258 259 260 261) = true := by decide

/-- V15.1. -/
theorem test_decode_clear :
    decodesTo [0xA5, 0x00, 0x09, 0x2E, 0xCC, 0x33, 0xC3, 0x3C, 0x82]
      (.clear) = true := by decide

/-- V16.3. -/
theorem test_decode_drawString :
    decodesTo [0xA5, 0x00, 0x10, 0x30, 0xFF, 0xFE, 0x01, 0x2C, 0xC4, 0xE3, 0x00, 0xCC, 0x33, 0xC3, 0x3C, 0x8E]
      (.drawString [0xC4, 0xE3] (-2) 300) = true := by decide

/-- V16.6. -/
theorem test_decode_drawBitmap :
    decodesTo [0xA5, 0x00, 0x13, 0x70, 0x00, 0x64, 0x00, 0x32, 0x41, 0x2E, 0x42, 0x4D, 0x50, 0x00, 0xCC, 0x33, 0xC3, 0x3C, 0xA0]
      (.drawBitmap [0x41, 0x2E, 0x42, 0x4D, 0x50] 100 50) = true := by decide

/-! ### Decoding: each reason to reject -/

/-- R75, eight bytes. -/
theorem test_reject_tooShort :
    rejectedFor [0xA5, 0x00, 0x08, 0xCC, 0x33, 0xC3, 0x3C, 0x5D] .tooShort = true := by decide

/-- R75, no byte. -/
theorem test_reject_empty :
    rejectedFor [] .tooShort = true := by decide

/-- V20.1. -/
theorem test_reject_marker :
    rejectedFor [0x00, 0x00, 0x09, 0x2E, 0xCC, 0x33, 0xC3, 0x3C, 0x27] .badMarker = true := by decide

/-- V20.2. -/
theorem test_reject_length :
    rejectedFor [0xA5, 0x00, 0x0A, 0x2E, 0xCC, 0x33, 0xC3, 0x3C, 0x82] .badLength = true := by decide

/-- V20.3. -/
theorem test_reject_checksum :
    rejectedFor [0xA5, 0x00, 0x09, 0x2E, 0xCC, 0x33, 0xC3, 0x3C, 0x83] .badChecksum = true := by decide

/-- V20.4. -/
theorem test_reject_trailer :
    rejectedFor [0xA5, 0x00, 0x09, 0x2E, 0xCC, 0x33, 0xC3, 0x3D, 0x83] .badTrailer = true := by decide

/-- V20.5. -/
theorem test_reject_opcode :
    rejectedFor [0xA5, 0x00, 0x09, 0x2F, 0xCC, 0x33, 0xC3, 0x3C, 0x83] .unknownOpcode = true := by decide

/-- V20.6. -/
theorem test_reject_payload_length :
    rejectedFor [0xA5, 0x00, 0x0A, 0x2E, 0x00, 0xCC, 0x33, 0xC3, 0x3C, 0x81] .badPayloadLength = true := by decide

/-- V20.7. -/
theorem test_reject_missing_nul :
    rejectedFor [0xA5, 0x00, 0x0E, 0x30, 0x00, 0x00, 0x00, 0x00, 0x41, 0xCC, 0x33, 0xC3, 0x3C, 0xDA] .missingNul = true := by decide

/-- V20.8. -/
theorem test_reject_inner_nul :
    rejectedFor [0xA5, 0x00, 0x11, 0x30, 0x00, 0x00, 0x00, 0x00, 0x41, 0x00, 0x42, 0x00, 0xCC, 0x33, 0xC3, 0x3C, 0x87] .innerNul = true := by decide

/-- V20, accept check: coordinate bytes 00 are not the terminator. -/
theorem test_decode_empty_text :
    decodesTo [0xA5, 0x00, 0x0E, 0x30, 0x00, 0x00, 0x00, 0x00, 0x00, 0xCC, 0x33, 0xC3, 0x3C, 0x9B]
      (.drawString [] 0 0) = true := by decide

/-! ### Sending: every constructor, one command on the link -/

/-- V10.1. -/
theorem test_send_handshake :
    sends (.handshake)
      [0xA5, 0x00, 0x09, 0x00, 0xCC, 0x33, 0xC3, 0x3C, 0xAC] = true := by decide

/-- V10.2. -/
theorem test_send_setBaud :
    sends (.setBaud 115200)
      [0xA5, 0x00, 0x0D, 0x01, 0x00, 0x01, 0xC2, 0x00, 0xCC, 0x33, 0xC3, 0x3C, 0x6A] = true := by decide

/-- V10.6. -/
theorem test_send_readBaud :
    sends (.readBaud)
      [0xA5, 0x00, 0x09, 0x02, 0xCC, 0x33, 0xC3, 0x3C, 0xAE] = true := by decide

/-- V10.8. -/
theorem test_send_memoryMode :
    sends (.memoryMode 1)
      [0xA5, 0x00, 0x0A, 0x07, 0x01, 0xCC, 0x33, 0xC3, 0x3C, 0xA9] = true := by decide

/-- V10.9. -/
theorem test_send_stopMode :
    sends (.stopMode)
      [0xA5, 0x00, 0x09, 0x08, 0xCC, 0x33, 0xC3, 0x3C, 0xA4] = true := by decide

/-- V10.10. -/
theorem test_send_update :
    sends (.update)
      [0xA5, 0x00, 0x09, 0x0A, 0xCC, 0x33, 0xC3, 0x3C, 0xA6] = true := by decide

/-- V10.12. -/
theorem test_send_screenRotation :
    sends (.screenRotation 255)
      [0xA5, 0x00, 0x0A, 0x0D, 0xFF, 0xCC, 0x33, 0xC3, 0x3C, 0x5D] = true := by decide

/-- V10.13. -/
theorem test_send_loadFont :
    sends (.loadFont)
      [0xA5, 0x00, 0x09, 0x0E, 0xCC, 0x33, 0xC3, 0x3C, 0xA2] = true := by decide

/-- V10.14. -/
theorem test_send_loadPicture :
    sends (.loadPicture)
      [0xA5, 0x00, 0x09, 0x0F, 0xCC, 0x33, 0xC3, 0x3C, 0xA3] = true := by decide

/-- V11.2. -/
theorem test_send_setColor :
    sends (.setColor 255 0)
      [0xA5, 0x00, 0x0B, 0x10, 0xFF, 0x00, 0xCC, 0x33, 0xC3, 0x3C, 0x41] = true := by decide

/-- V11.3. -/
theorem test_send_setEnFont :
    sends (.setEnFont 1)
      [0xA5, 0x00, 0x0A, 0x1E, 0x01, 0xCC, 0x33, 0xC3, 0x3C, 0xB0] = true := by decide

/-- V11.4. -/
theorem test_send_setChFont :
    sends (.setChFont 2)
      [0xA5, 0x00, 0x0A, 0x1F, 0x02, 0xCC, 0x33, 0xC3, 0x3C, 0xB2] = true := by decide

/-- V13.4. -/
theorem test_send_drawPixel :
    sends (.drawPixel 65536 (-32768))
      [0xA5, 0x00, 0x0D, 0x20, 0x00, 0x00, 0x80, 0x00, 0xCC, 0x33, 0xC3, 0x3C, 0x08] = true := by decide

/-- V14.2. -/
theorem test_send_drawLine :
    sends (.drawLine (-1) 0 65535 70000)
      [0xA5, 0x00, 0x11, 0x22, 0xFF, 0xFF, 0x00, 0x00, 0xFF, 0xFF, 0x11, 0x70, 0xCC, 0x33, 0xC3, 0x3C, 0xF7] = true := by decide

/-- V14.3. -/
theorem test_send_fillRect :
    sends (.fillRect 10 20 300 400)
      [0xA5, 0x00, 0x11, 0x24, 0x00, 0x0A, 0x00, 0x14, 0x01, 0x2C, 0x01, 0x90, 0xCC, 0x33, 0xC3, 0x3C, 0x32] = true := by decide

/-- V14.4. -/
theorem test_send_drawCircle :
    sends (.drawCircle 400 300 50)
      [0xA5, 0x00, 0x0F, 0x26, 0x01, 0x90, 0x01, 0x2C, 0x00, 0x32, 0xCC, 0x33, 0xC3, 0x3C, 0x02] = true := by decide

/-- V14.6. -/
theorem test_send_fillCircle :
    sends (.fillCircle (-1) (-1) (-1))
      [0xA5, 0x00, 0x0F, 0x27, 0xFF, 0xFF, 0xFF, 0xFF, 0xFF, 0xFF, 0xCC, 0x33, 0xC3, 0x3C, 0x8D] = true := by decide

/-- V14.7. -/
theorem test_send_drawTriangle :
    sends (.drawTriangle 0 0 100 0 50 80)
      [0xA5, 0x00, 0x15, 0x28, 0x00, 0x00, 0x00, 0x00, 0x00, 0x64, 0x00, 0x00, 0x00, 0x32, 0x00, 0x50, 0xCC, 0x33, 0xC3, 0x3C, 0x9E] = true := by decide

/-- V14.8. -/
theorem test_send_fillTriangle :
    sends (.fillTriangle 256 257 258 259 260 261)
      [0xA5, 0x00, 0x15, 0x29, 0x01, 0x00, 0x01, 0x01, 0x01, 0x02, 0x01, 0x03, 0x01, 0x04, 0x01, 0x05, 0xCC, 0x33, 0xC3, 0x3C, 0x98] = true := by decide

/-- V15.1. -/
theorem test_send_clear :
    sends (.clear)
      [0xA5, 0x00, 0x09, 0x2E, 0xCC, 0x33, 0xC3, 0x3C, 0x82] = true := by decide

/-- V16.3. -/
theorem test_send_drawString :
    sends (.drawString [0xC4, 0xE3] (-2) 300)
      [0xA5, 0x00, 0x10, 0x30, 0xFF, 0xFE, 0x01, 0x2C, 0xC4, 0xE3, 0x00, 0xCC, 0x33, 0xC3, 0x3C, 0x8E] = true := by decide

/-- V16.6. -/
theorem test_send_drawBitmap :
    sends (.drawBitmap [0x41, 0x2E, 0x42, 0x4D, 0x50] 100 50)
      [0xA5, 0x00, 0x13, 0x70, 0x00, 0x64, 0x00, 0x32, 0x41, 0x2E, 0x42, 0x4D, 0x50, 0x00, 0xCC, 0x33, 0xC3, 0x3C, 0xA0] = true := by decide

/-! ### Early errors, the port, the write, the link, reset -/

/-- V17.4: MAX_FRAME 21, n = 22. -/
theorem test_too_large :
    exec (.drawString [0x41, 0x42, 0x43, 0x44, 0x45, 0x46, 0x47, 0x48] 0 0) smallState =
      .next { smallState with rsp := some ⟨.payloadTooLarge, 0⟩ } := by rfl

/-- V16.4 at MAX_FRAME 21: n = 21 uses the whole buffer. -/
theorem test_largest_text :
    nextHas (exec (.drawString [0x41, 0x42, 0x43, 0x44, 0x45, 0x46, 0x47] 0 0) smallState) (fun t =>
      decide (t.wp = 21 ∧ t.flen = 21 ∧ t.chk = 0xC0)) = true := by decide

/-- V17.5, smaller: the link check comes first. -/
theorem test_link_check_comes_first :
    exec (.drawString [0x41, 0x42, 0x43, 0x44, 0x45, 0x46, 0x47, 0x48] 0 0) { smallState with link := .down } =
      .next { smallState with link := .down, rsp := some ⟨.deviceUnavailable, 0⟩ } := by rfl

/-- V16, corner case: an ill-formed command leaves no trace. -/
theorem test_ill_formed_leaves_no_trace :
    exec (.drawString [0x48, 0x00, 0x69] 0 0) upState = .next upState := by rfl

/-- V19.5: the port takes a close. -/
theorem test_close_at_the_port :
    step (offered upState .close [.takeRequest]) = .next { State.reset with rsp := some ⟨.ok, 0⟩ } := by rfl

/-- R177: the transport takes byte 4 of clear's frame. -/
theorem test_accept_byte : acceptByte (clearInFlight 4) = .next (clearInFlight 5) := by rfl

/-- V18.7, V18.8: results that are not allowed change nothing. -/
theorem test_results_not_allowed :
    endWrite .ok (clearInFlight 8) = .next (clearInFlight 8) ∧
    endWrite .shortWrite (clearInFlight 9) = .next (clearInFlight 9) := ⟨rfl, rfl⟩

/-- V18.1 to V18.6, on clear: the numbers of the responses. -/
theorem test_results :
    nextHas (endWrite .shortWrite (clearInFlight 8)) (fun t => t.rsp.map (·.code.number) == some 3) = true ∧
    nextHas (endWrite .ioError (clearInFlight 9)) (fun t => t.rsp.map (·.code.number) == some 2) = true ∧
    nextHas (endWrite .ok (clearInFlight 9)) (fun t => t.rsp.map (·.code.number) == some 0) = true := by decide

/-- V19.2d: configure fails. -/
theorem test_link_up_configure_fails :
    answerConfigure .ioError { State.reset with linkStage := .configuring } =
      .next { State.reset with rsp := some ⟨.deviceUnavailable, 3⟩ } := by rfl

/-- V19.2e: link-up on an open link leaves no trace. -/
theorem test_link_up_while_up : execLinkUp upState = .next upState := by rfl

/-- V19.4: reset of a hanging write keeps the log. -/
theorem test_reset_keeps_the_log :
    (clearInFlight 4).resetMove.txlog = [0xA5, 0x00, 0x09, 0x2E] ∧ (clearInFlight 4).resetMove.link = .down ∧
    (clearInFlight 4).resetMove.phase = .idle ∧ (clearInFlight 4).resetMove.rsp = none := ⟨rfl, rfl, rfl, rfl⟩

/-- U7: a buffer byte that nothing has written is not read. -/
theorem test_unwritten_byte_faults :
    acceptByte { clearInFlight 4 with buf := [] } = .fault (.unwrittenByte 4) := by rfl

/-! ### The opcode table's words -/

/-- Every row's match byte decodes to the row's command, and runs as the first step after reset: with the link Down it
answers DEVICE_UNAVAILABLE (R202). -/
def rowRuns (w : Nat) (k : Kind) : Bool :=
  decide ((decodeTableWord 8 w).map Instr.kind = some k) &&
    nextHas (step (State.reset.withFetchWord 8 w)) (fun t => decide (t.rsp = some ⟨.deviceUnavailable, 0⟩))

theorem test_table_rows_system :
    rowRuns 0x00 .handshake && rowRuns 0x01 .setBaud && rowRuns 0x02 .readBaud && rowRuns 0x07 .memoryMode &&
    rowRuns 0x08 .stopMode && rowRuns 0x0A .update && rowRuns 0x0D .screenRotation && rowRuns 0x0E .loadFont &&
    rowRuns 0x0F .loadPicture = true := by decide

theorem test_table_rows_style :
    rowRuns 0x10 .setColor && rowRuns 0x1E .setEnFont && rowRuns 0x1F .setChFont = true := by decide

theorem test_table_rows_draw :
    rowRuns 0x20 .drawPixel && rowRuns 0x22 .drawLine && rowRuns 0x24 .fillRect && rowRuns 0x26 .drawCircle &&
    rowRuns 0x27 .fillCircle && rowRuns 0x28 .drawTriangle && rowRuns 0x29 .fillTriangle && rowRuns 0x2E .clear = true := by
  decide

theorem test_table_rows_text : rowRuns 0x30 .drawString && rowRuns 0x70 .drawBitmap = true := by decide

/-- A byte that is no row's opcode (V20.5), and a word with a payload byte. -/
theorem test_table_words :
    decodeTableWord 8 0x2F = none ∧ decodeTableWord 16 0x030D = some (.screenRotation 3) := by decide

/-! ### The textual form (R77) -/

/-- One line of R77's grammar reads as this request. -/
def reads (line : String) (r : Request) : Bool := decide (parseLine line.toList = some r)

theorem test_read_integers : reads "draw-line(-1, 0, 65535, 70000)" (.command (.drawLine (-1) 0 65535 70000)) = true := by
  decide

/-- V11.2. -/
theorem test_read_hex : reads "set-color(0xFF, 0x00)" (.command (.setColor 255 0)) = true := by decide

/-- V16, corner case. -/
theorem test_read_byte_list :
    reads "draw-string([48 00 69], 0, 0)" (.command (.drawString [0x48, 0x00, 0x69] 0 0)) = true := by decide

/-- V16.1; the quoted text's commas and parentheses are text. -/
theorem test_read_string :
    reads "draw-string(\"Hi\", 10, 20)" (.command (.drawString [0x48, 0x69] 10 20)) = true ∧
    reads "draw-bitmap(\"A,(B)\", 100, 50)" (.command (.drawBitmap [0x41, 0x2C, 0x28, 0x42, 0x29] 100 50)) = true := by
  decide

theorem test_read_link_lines :
    reads "link-up" .linkUp = true ∧ reads "close" .close = true ∧ reads "clear()" (.command .clear) = true := by decide

theorem test_read_rejects :
    parseLine "clear".toList = none ∧ parseLine "clear(1)".toList = none ∧ parseLine "draw-pixel(1)".toList = none ∧
    parseLine "draw-pixel(1, x)".toList = none ∧ parseLine "erase()".toList = none := by decide

/-! ### The serial line (R183) -/

/-- 0xA5, least significant bit first, between a start bit and a stop bit, after a gap of two bit times. -/
theorem test_line_character :
    lineWave lineCfgFixed [2] [0xA5] =
      [true, true, false, true, false, true, false, false, true, false, true, true] := by decide

/-! ### Witnesses: a state and operands that meet each obligation's hypotheses -/

theorem table_ok : OpcodeMap.table.Ok := by decide

theorem upState_canSend : CanSend upState := ⟨by decide, rfl, by decide⟩

theorem smallState_canSend : CanSend smallState := ⟨by decide, rfl, by decide⟩

theorem upState_good : Good upState :=
  ⟨by decide, rfl, rfl, rfl, by decide, by decide, by simp [upState, State.reset],
    .inl ⟨rfl, rfl, fun h => absurd rfl h⟩⟩

/-- Clear in flight, for every number of bytes taken, both ends included. -/
theorem clearInFlight_inFlight (k : Nat) (h : k ≤ 9) : InFlight [] .clear (clearInFlight k) :=
  ⟨rfl, rfl, by decide, rfl, rfl, show (encode OpcodeMap.table .clear).length ≤ 512 by decide, rfl, rfl,
    show 0x82 = xorAll (encode OpcodeMap.table .clear).dropLast by decide,
    show (clearInFlight 0).frameBytes = (encode OpcodeMap.table .clear).map some by decide, h,
    congrArg (List.take k) (show clearFrame = encode OpcodeMap.table .clear by decide)⟩

theorem clearInFlight_good (k : Nat) (h : k ≤ 9) : Good (clearInFlight k) :=
  ⟨show Config.reference.Ok by decide, rfl, rfl, rfl, show 9 ≤ 512 by decide, show k ≤ 65535 by omega,
    by simp [clearInFlight, upState, State.reset],
    .inr ⟨[], .clear, clearInFlight_inFlight k h⟩⟩

theorem witness_SourceFramesAreExact : ∃ m : OpcodeMap, m.Ok := ⟨_, table_ok⟩

/-- With coordinates at the ends of the 16-bit range (second clause), at the ends of the s32 range, and with a text of
the greatest length the length field allows. -/
theorem witness_DecodeOfEncodeIsTheCommand :
    OpcodeMap.table.Ok ∧
    ((Instr.drawPixel (-32768) 32767).wellFormed = true ∧
      (encode OpcodeMap.table (.drawPixel (-32768) 32767)).length ≤ 65535 ∧
      ∀ v ∈ (Instr.drawPixel (-32768) 32767).coordArgs, -32768 ≤ v ∧ v ≤ 32767) ∧
    ((Instr.drawPixel (-2147483648) 2147483647).wellFormed = true ∧
      (encode OpcodeMap.table (.drawPixel (-2147483648) 2147483647)).length ≤ 65535) ∧
    ((Instr.drawString (List.replicate 65521 0x41) 0 0).wellFormed = true ∧
      (encode OpcodeMap.table (.drawString (List.replicate 65521 0x41) 0 0)).length = 65535) := by
  have h : ∀ n, (Instr.drawString (List.replicate n 0x41) 0 0).wellFormed = true ∧
      (encode OpcodeMap.table (.drawString (List.replicate n 0x41) 0 0)).length = n + 14 := fun n => by
    constructor
    · simp [Instr.wellFormed, Instr.passes, Instr.byteArgs, Instr.coordArgs, Instr.wordArgs, Instr.text]
    · simp [length_encode, payload, payloadS, payloadC, frameLength]
      omega
  exact ⟨table_ok, by decide, by decide, (h 65521).1, (h 65521).2.trans (by decide)⟩

theorem witness_EncodeOfDecodeIsTheFrame : decode OpcodeMap.table clearFrame = .ok .clear := by decide

/-- A frame that decodes (V16.2), and the second clause's hypotheses. -/
theorem witness_DecodeSucceedsExactlyOnFrames :
    decodeFrame OpcodeMap.table [0xA5, 0x00, 0x0E, 0x30, 0x00, 0x00, 0x00, 0x00, 0x00, 0xCC, 0x33, 0xC3, 0x3C, 0x9B]
      = .ok (.drawString, [0x00, 0x00, 0x00, 0x00, 0x00]) ∧
    OpcodeMap.table.Ok ∧ (Instr.drawString [] 0 0).wellFormed = true ∧
    (encode OpcodeMap.table (.drawString [] 0 0)).length ≤ 65535 := ⟨by decide, table_ok, by decide, by decide⟩

/-- One command for each clause. -/
theorem witness_FrameLengthPerCommand :
    (Instr.update).kind ∈ [Kind.handshake, .readBaud, .stopMode, .update, .loadFont, .loadPicture, .clear] ∧
    (Instr.setChFont 255).kind ∈ [Kind.memoryMode, .screenRotation, .setEnFont, .setChFont] ∧
    (Instr.setColor 0 0).kind = .setColor ∧ (Instr.setBaud 0).kind ∈ [Kind.setBaud, .drawPixel] ∧
    (Instr.fillCircle 0 0 0).kind ∈ [Kind.drawCircle, .fillCircle] ∧
    (Instr.fillRect 0 0 0 0).kind ∈ [Kind.drawLine, .fillRect] ∧
    (Instr.drawTriangle 0 0 0 0 0 0).kind ∈ [Kind.drawTriangle, .fillTriangle] ∧
    (Instr.drawBitmap [] 0 0).kind ∈ [Kind.drawString, .drawBitmap] := by decide

theorem witness_OperandBytesAreBigEndianResidues :
    ((0 : Int) ≤ 255 ∧ (255 : Int) ≤ 255) ∧ ((0 : Int) ≤ 4294967295 ∧ (4294967295 : Int) ≤ 4294967295) := by decide

/-- V13.3: -1 and 65535 have the same bytes. -/
theorem witness_SameWireCommandSameFrame :
    (Instr.drawPixel (-1) 65535).onWire = (Instr.drawPixel 65535 (-1)).onWire := by decide

theorem witness_NoPayloadCommandsSend : CanSend upState := upState_canSend

theorem witness_ByteCommandsSend : CanSend upState ∧ (0 : Int) ≤ 255 ∧ (255 : Int) ≤ 255 :=
  ⟨upState_canSend, by decide⟩

theorem witness_SetColorSendsForegroundFirst :
    CanSend upState ∧ (0 : Int) ≤ 0 ∧ (0 : Int) ≤ 255 ∧ (0 : Int) ≤ 255 ∧ (255 : Int) ≤ 255 :=
  ⟨upState_canSend, by decide⟩

theorem witness_SetBaudSendsBigEndianWord : CanSend upState := upState_canSend

theorem witness_CoordinateCommandsSend :
    CanSend smallState ∧ Claims.S32 (-2147483648) ∧ Claims.S32 2147483647 ∧ Claims.S32 0 :=
  ⟨smallState_canSend, by unfold Claims.S32; decide, by unfold Claims.S32; decide, by unfold Claims.S32; decide⟩

/-- The longest text at the smallest MAX_FRAME (V16.4), and the empty text (V16.2). -/
theorem witness_TextCommandsSend :
    CanSend smallState ∧ (∀ b ∈ [0x41, 0x42, 0x43, 0x44, 0x45, 0x46, (0x47 : Byte)], b ≠ 0x00) ∧ Claims.S32 0 ∧
    14 + [0x41, 0x42, 0x43, 0x44, 0x45, 0x46, (0x47 : Byte)].length = smallState.cfg.maxFrame ∧
    14 + ([] : List Byte).length ≤ smallState.cfg.maxFrame :=
  ⟨smallState_canSend, by decide, by unfold Claims.S32; decide, by decide, by decide⟩

/-- One state for each of the three outcomes: link Down, n = MAX_FRAME + 1, n = MAX_FRAME. -/
theorem witness_ExecuteRefinesEncode :
    (State.reset.portReady = true ∧ (Instr.clear).wellFormed = true ∧ State.reset.link = .down) ∧
    (smallState.portReady = true ∧ (Instr.drawString (List.replicate 8 0x41) 0 0).wellFormed = true ∧
      (encode smallState.cfg.opcodes (.drawString (List.replicate 8 0x41) 0 0)).length = smallState.cfg.maxFrame + 1) ∧
    (smallState.portReady = true ∧ (Instr.drawString (List.replicate 7 0x41) 0 0).wellFormed = true ∧
      (encode smallState.cfg.opcodes (.drawString (List.replicate 7 0x41) 0 0)).length = smallState.cfg.maxFrame) := by
  decide

/-- Of format S, so that its last invariant's hypothesis is met, at n = MAX_FRAME. -/
theorem witness_BuiltFramesMeetTheFrameInvariants :
    CanSend smallState ∧ (Instr.drawString (List.replicate 7 0x41) 0 0).wellFormed = true ∧
    (encode smallState.cfg.opcodes (.drawString (List.replicate 7 0x41) 0 0)).length ≤ smallState.cfg.maxFrame ∧
    formatOf (Instr.drawString (List.replicate 7 0x41) 0 0).kind = .s :=
  ⟨smallState_canSend, by decide, by decide, rfl⟩

theorem witness_BuildStoresExactlyTheFrame :
    CanSend smallState ∧ (Instr.fillTriangle 0 0 0 0 0 0).wellFormed = true ∧
    (encode smallState.cfg.opcodes (.fillTriangle 0 0 0 0 0 0)).length = smallState.cfg.maxFrame :=
  ⟨smallState_canSend, by decide, by decide⟩

/-- A command that sends, and one that does not (V17.4). -/
theorem witness_CommandsChangeNothingElse :
    (exec .clear upState = .next (upState.handedOff .clear clearFrame) ∧ upState.portReady = true ∧
      (Instr.clear).wellFormed = true ∧ upState.link = .up ∧
      (encode upState.cfg.opcodes .clear).length ≤ upState.cfg.maxFrame) ∧
    (exec (.drawString (List.replicate 8 0x41) 0 0) smallState =
        .next { smallState with rsp := some ⟨.payloadTooLarge, 0⟩ } ∧
      ¬(encode smallState.cfg.opcodes (.drawString (List.replicate 8 0x41) 0 0)).length ≤ smallState.cfg.maxFrame) :=
  ⟨⟨rfl, by decide⟩, rfl, by decide⟩

/-- Two states with different histories. -/
theorem witness_BuildIgnoresHistory :
    CanSend upState ∧ CanSend { upState with buf := [(0, 0xFF), (30, 0x12)], wp := 4, chk := 0x55, txlog := [0xA5] } ∧
    (Instr.setColor 1 2).wellFormed = true ∧
    (encode upState.cfg.opcodes (.setColor 1 2)).length ≤ upState.cfg.maxFrame :=
  ⟨upState_canSend, ⟨by decide, rfl, by decide⟩, by decide, by decide⟩

theorem witness_CommandOnDownLinkIsUnavailable :
    State.reset.portReady = true ∧ (Instr.update).wellFormed = true ∧ State.reset.link = .down := by decide

/-- L = MAX_FRAME - 13 and L = MAX_FRAME - 14 (V17.4, V16.4). -/
theorem witness_CapacityCheckIsExact :
    CanSend smallState ∧
    ((Instr.drawBitmap (List.replicate 8 0x41) 0 0).wellFormed = true ∧
      smallState.cfg.maxFrame < (encode smallState.cfg.opcodes (.drawBitmap (List.replicate 8 0x41) 0 0)).length) ∧
    ((Instr.drawBitmap (List.replicate 7 0x41) 0 0).wellFormed = true ∧
      (encode smallState.cfg.opcodes (.drawBitmap (List.replicate 7 0x41) 0 0)).length ≤ smallState.cfg.maxFrame) :=
  ⟨smallState_canSend, by decide, by decide⟩

theorem witness_IllFormedCommandLeavesNoTrace :
    (Instr.setColor 0 256).wellFormed = false ∧ (offered upState (.command (.setColor 0 256)) []).portReady = true ∧
    (offered upState (.command (.setColor 0 256)) []).reqs = [.command (.setColor 0 256)] := ⟨by decide, by decide, rfl⟩

/-- A frame in flight, and a link-up waiting for each of its answers, each with a request offered. -/
theorem witness_BusyPortKeepsRequestsWaiting :
    InFlight [] .clear (offered (clearInFlight 9) (.command .update) []) ∧
    (offered { State.reset with linkStage := .opening } (.command .update) []).portReady = false ∧
    (offered { State.reset with linkStage := .configuring } .close []).portReady = false :=
  ⟨(clearInFlight_inFlight 9 (by decide)).withInputs _ _, rfl, rfl⟩

theorem witness_StepRunsTheOfferedCommand :
    (offered upState (.command .clear) [.takeRequest]).portReady = true ∧ (Instr.clear).wellFormed = true ∧
    (offered upState (.command .clear) [.takeRequest]).reqs = [.command .clear] ∧
    (offered upState (.command .clear) [.takeRequest]).env = [.takeRequest] := ⟨by decide, by decide, rfl, rfl⟩

theorem witness_StepRunsThePlacedWord :
    decodeTableWord 8 0x2E = some .clear ∧ decodeTableWord 16 0xFF0D = some (.screenRotation 255) := by decide

/-- The last index of the buffer, and the first one beyond it. -/
theorem witness_AppendStoresOneByteAtTheWritePointer :
    { smallState with wp := 20 }.wp < { smallState with wp := 20 }.cfg.maxFrame ∧
    { smallState with wp := 21 }.cfg.maxFrame ≤ { smallState with wp := 21 }.wp := by decide

/-- The first and the last byte of a frame; no byte left; no frame in flight; and another move. -/
theorem witness_BytesAreAcceptedInOrder :
    (InFlight [] .clear (clearInFlight 0) ∧ (clearInFlight 0).txi < (clearInFlight 0).flen.toNat) ∧
    (InFlight [] .clear (clearInFlight 8) ∧ (clearInFlight 8).txi < (clearInFlight 8).flen.toNat) ∧
    ¬((clearInFlight 9).phase = .sending ∧ (clearInFlight 9).txi < (clearInFlight 9).flen.toNat) ∧
    ¬(upState.phase = .sending ∧ upState.txi < upState.flen.toNat) ∧
    (Move.assertReset ≠ .acceptByte ∧ runMove .assertReset upState = .next upState.resetMove) :=
  ⟨⟨clearInFlight_inFlight 0 (by decide), by decide⟩, ⟨clearInFlight_inFlight 8 (by decide), by decide⟩, by decide,
    by decide, by decide, rfl⟩

/-- All bytes taken, one byte left, none taken, and no move left. -/
theorem witness_WriteResultsFollowTheirConstraints :
    (clearInFlight 9).phase = .sending ∧ (clearInFlight 9).txi = (clearInFlight 9).flen.toNat ∧
    (clearInFlight 8).txi < (clearInFlight 8).flen.toNat ∧ (clearInFlight 0).txi ≤ (clearInFlight 0).flen.toNat ∧
    (clearInFlight 8).txi ≠ (clearInFlight 8).flen.toNat ∧ ¬(clearInFlight 9).txi < (clearInFlight 9).flen.toNat ∧
    (clearInFlight 4).env = [] := by decide

theorem witness_ShortWriteIsNeverSuccess :
    (clearInFlight 8).phase = .sending ∧ (clearInFlight 8).txi < (clearInFlight 8).flen.toNat ∧
    endWrite .ioError (clearInFlight 8) = .next ((clearInFlight 8).respond .ioError 0) := ⟨rfl, by decide, rfl⟩

theorem witness_StepOfAFrameInFlight :
    InFlight [] .clear (clearInFlight 0) ∧ InFlight [] .clear (clearInFlight 9) :=
  ⟨clearInFlight_inFlight 0 (by decide), clearInFlight_inFlight 9 (by decide)⟩

/-- Clear offered on the link, and the outside's moves until its response. -/
def clearDelivered (k : Nat) (r : WriteResult) : State :=
  offered upState (.command .clear) (.takeRequest :: (List.replicate k .acceptByte ++ [.endWrite r]))

theorem clearDelivered_canSend (k : Nat) (r : WriteResult) : CanSend (clearDelivered k r) :=
  ⟨rfl, rfl, show Config.reference.Ok by decide⟩

theorem witness_AcceptedFrameIsDelivered :
    CanSend (clearDelivered 9 .ok) ∧ (Instr.clear).wellFormed = true ∧
    (encode (clearDelivered 9 .ok).cfg.opcodes .clear).length ≤ (clearDelivered 9 .ok).cfg.maxFrame ∧
    (clearDelivered 9 .ok).reqs = [.command .clear] ∧
    (clearDelivered 9 .ok).env = .takeRequest ::
      (List.replicate (encode (clearDelivered 9 .ok).cfg.opcodes .clear).length .acceptByte ++ [.endWrite .ok]) :=
  ⟨clearDelivered_canSend 9 .ok, by decide, by decide, rfl, rfl⟩

/-- V18.3 and V18.5 on clear: ShortWrite after n-1 bytes, IOError after all n. -/
theorem witness_FailedWriteLeavesAPrefix :
    (CanSend (clearDelivered 8 .shortWrite) ∧
      8 < (encode (clearDelivered 8 .shortWrite).cfg.opcodes .clear).length ∧
      (clearDelivered 8 .shortWrite).reqs = [.command .clear] ∧
      (clearDelivered 8 .shortWrite).env = .takeRequest :: (List.replicate 8 .acceptByte ++ [.endWrite .shortWrite])) ∧
    (CanSend (clearDelivered 9 .ioError) ∧
      9 ≤ (encode (clearDelivered 9 .ioError).cfg.opcodes .clear).length ∧
      (clearDelivered 9 .ioError).reqs = [.command .clear] ∧
      (clearDelivered 9 .ioError).env = .takeRequest :: (List.replicate 9 .acceptByte ++ [.endWrite .ioError])) :=
  ⟨⟨clearDelivered_canSend _ _, by decide, rfl, rfl⟩, clearDelivered_canSend _ _, by decide, rfl, rfl⟩

/-- V19.3: four bytes taken, then nothing comes; and with bytes still to come. -/
theorem witness_WriteWithoutAnswerHangs :
    InFlight [] .clear (clearInFlight 4) ∧
    (∀ m ∈ (clearInFlight 4).env, (∀ r, m ≠ .endWrite r) ∧ m ≠ .assertReset) ∧
    InFlight [] .clear { clearInFlight 4 with env := [.acceptByte, .takeRequest] } ∧
    (∀ m ∈ [Move.acceptByte, .takeRequest], (∀ r, m ≠ .endWrite r) ∧ m ≠ .assertReset) :=
  ⟨clearInFlight_inFlight 4 (by decide), by simp [clearInFlight, upState, State.reset],
    (clearInFlight_inFlight 4 (by decide)).withInputs [] _, by simp⟩

/-- A run that sends two bytes of clear. -/
theorem witness_LogIsFramePrefixesInRequestOrder :
    Good (offered upState (.command .clear) [.takeRequest, .acceptByte, .acceptByte]) ∧
    AtRest (offered upState (.command .clear) [.takeRequest, .acceptByte, .acceptByte]) ∧
    Claims.runs 3 (offered upState (.command .clear) [.takeRequest, .acceptByte, .acceptByte]) (clearInFlight 2) :=
  ⟨upState_good.withInputs _ _, ⟨rfl, rfl, fun h => absurd rfl h⟩, rfl⟩

/-- V19.1, V19.2 to V19.2e: one state for each clause. -/
theorem witness_LinkUpFollowsItsTwoAnswers :
    (offered State.reset .linkUp []).portReady = true ∧ (offered State.reset .linkUp []).reqs = [.linkUp] ∧
    (offered State.reset .linkUp [.takeRequest, .answerOpen .notFound]).link = .down ∧
    (OpenResult.notFound, (1 : Fin 4)) ∈ [(OpenResult.notFound, (1 : Fin 4)), (.permissionDenied, 2), (.ioError, 3)] ∧
    (offered State.reset .linkUp [.takeRequest, .answerOpen .notFound]).env = [.takeRequest, .answerOpen .notFound] ∧
    (offered State.reset .linkUp [.takeRequest, .answerOpen .ok, .answerConfigure .ioError]).env =
      [.takeRequest, .answerOpen .ok, .answerConfigure .ioError] ∧
    (offered State.reset .linkUp [.takeRequest, .answerOpen .ok, .answerConfigure .ok]).env =
      [.takeRequest, .answerOpen .ok, .answerConfigure .ok] ∧
    (offered upState .linkUp [.takeRequest]).link = .up ∧ (offered upState .linkUp [.takeRequest]).portReady = true := by
  decide

/-- V19.5, V19.6, and a frame in flight. -/
theorem witness_CloseDropsTheLink :
    ((offered upState .close [.takeRequest]).portReady = true ∧ (offered upState .close [.takeRequest]).reqs = [.close] ∧
      (offered upState .close [.takeRequest]).env = [.takeRequest]) ∧
    ((offered State.reset .close []).portReady = true ∧ (offered State.reset .close []).reqs = [.close]) ∧
    (clearInFlight 0).portReady = false := by decide

/-- A close, an answer to configure and a reset that change the link. -/
theorem witness_OnlyLinkOperationsChangeTheLink :
    nextHas (runMove .takeRequest (offered upState .close [])) (fun t => decide (t.link ≠ .up)) = true ∧
    nextHas (runMove (.answerConfigure .ok) { State.reset with linkStage := .configuring })
      (fun t => decide (t.link ≠ .down)) = true ∧
    nextHas (runMove .assertReset upState) (fun t => decide (t.link ≠ .up)) = true := ⟨rfl, rfl, rfl⟩

theorem witness_ResetTakesTheResetValues :
    { clearInFlight 4 with env := [.assertReset] }.env = [.assertReset] := rfl

/-- A frame in flight, and a link-up waiting for each of its answers. -/
theorem witness_ResetAbandonsTheRequest :
    InFlight [] .clear (clearInFlight 4) ∧
    { State.reset with linkStage := .opening }.linkStage ≠ .notRunning ∧
    { State.reset with linkStage := .configuring }.linkStage ≠ .notRunning :=
  ⟨clearInFlight_inFlight 4 (by decide), by decide, by decide⟩

/-- A good state whose step takes a byte, and one whose step accepts a command. -/
theorem witness_StepKeepsTheInvariant :
    (Good { clearInFlight 8 with env := [.acceptByte] } ∧
      step { clearInFlight 8 with env := [.acceptByte] } = .next (clearInFlight 9)) ∧
    (Good (offered upState (.command .clear) [.takeRequest]) ∧
      step (offered upState (.command .clear) [.takeRequest]) = .next (clearInFlight 0)) :=
  ⟨⟨(clearInFlight_good 8 (by decide)).withInputs [] _, rfl⟩, upState_good.withInputs _ _, rfl⟩

theorem witness_GoodStatesNeverStop : Good (clearInFlight 0) ∧ Good upState :=
  ⟨clearInFlight_good 0 (by decide), upState_good⟩

/-- A step that extends the log. -/
theorem witness_LogIsAppendOnly : step { clearInFlight 8 with env := [.acceptByte] } = .next (clearInFlight 9) := rfl

theorem witness_ParametersAndLineConfigAreConstant :
    step { clearInFlight 8 with env := [.acceptByte] } = .next (clearInFlight 9) ∧
    (clearInFlight 8).lineCfg = lineCfgFixed := ⟨rfl, rfl⟩

/-- A step that takes the only request. -/
theorem witness_RequestsAreTakenInOrder :
    step (offered upState (.command .clear) [.takeRequest]) = .next (clearInFlight 0) := rfl

theorem witness_LineConfigurationValues : exec .clear upState = .next (upState.handedOff .clear clearFrame) := rfl

/-- A command without operands, and the ends of each operand's range. -/
theorem witness_WellFormedExactlyInRange :
    Instr.clear ∈ [Instr.handshake, .readBaud, .stopMode, .update, .loadFont, .loadPicture, .clear] ∧
    (Claims.U8 0 ∧ Claims.U8 255 ∧ ¬Claims.U8 256) ∧
    (Claims.S32 (-2147483648) ∧ Claims.S32 2147483647 ∧ ¬Claims.S32 2147483648 ∧ ¬Claims.S32 (-2147483649)) := by
  unfold Claims.U8 Claims.S32
  decide

end Sys2Proof.Tests
end

/-! ## The values of the operand bytes (00_scope.md R9, 30_encoding.md R71) -/

namespace Sys2Proof.Machine

/-- The bits of an integer hold its least non-negative residue (R9). -/
theorem natCast_toNat_ofInt (w : Nat) (v : Int) : ((BitVec.ofInt w v).toNat : Int) = v % 2 ^ w := by
  rw [BitVec.toNat_ofInt, Int.toNat_of_nonneg (Int.emod_nonneg v (by positivity))]
  norm_cast

/-- An unsigned integer of width w is held unchanged in w bits (R9). -/
theorem natCast_toNat_ofInt_of_lt (w : Nat) (v : Int) (h0 : 0 ≤ v) (hlt : v < 2 ^ w) :
    ((BitVec.ofInt w v).toNat : Int) = v := by
  rw [natCast_toNat_ofInt, Int.emod_eq_of_lt h0 hlt]

/-- A 16-bit value is its high byte times 256 plus its low byte (R41). -/
theorem hiByte_loByte_toNat (v : BitVec 16) : (hiByte v).toNat * 256 + (loByte v).toNat = v.toNat := by
  have h := lengthField_toNat v.toNat (by have := v.isLt; omega)
  rwa [BitVec.ofNat_toNat, BitVec.setWidth_eq] at h

/-- The two bytes of a coordinate read, high byte first, as its residue modulo 2^16 (R71). -/
theorem hi_lo_toNat (v : Int) : ((hi v).toNat : Int) * 256 + (lo v).toNat = v % 65536 := by
  have hbytes : (hi v).toNat * 256 + (lo v).toNat = (u16 v).toNat := hiByte_loByte_toNat (u16 v)
  have hres : ((u16 v).toNat : Int) = v % 65536 := natCast_toNat_ofInt 16 v
  omega

/-- A 32-bit value is the value of its four bytes, most significant first (R69). -/
theorem wordBytes_toNat (w : BitVec 32) :
    (w.extractLsb' 24 8).toNat * 16777216 + (w.extractLsb' 16 8).toNat * 65536 + (w.extractLsb' 8 8).toNat * 256 +
      (w.extractLsb' 0 8).toNat = w.toNat := by
  have := w.isLt
  simp only [BitVec.extractLsb'_toNat, Nat.shiftRight_eq_div_pow]
  omega

end Sys2Proof.Machine

/-! ## What a step does to the parameters and to LINECFG (00_scope.md R7, 10_state.md R30) -/

namespace Sys2Proof.Machine

/-- Both states have the same parameters and the same LINECFG. -/
structure SameConfig (s t : State) : Prop where
  cfg_eq     : t.cfg = s.cfg
  lineCfg_eq : t.lineCfg = s.lineCfg

/-- The parameters are the same, and LINECFG is the same or has been set to its constants. -/
structure ConfigKeptOrApplied (s t : State) : Prop where
  cfg_eq  : t.cfg = s.cfg
  lineCfg : t.lineCfg = s.lineCfg ∨ t.lineCfg = lineCfgFixed

theorem SameConfig.keptOrApplied {s t : State} (h : SameConfig s t) : ConfigKeptOrApplied s t :=
  ⟨h.cfg_eq, .inl h.lineCfg_eq⟩

variable {s t : State}

theorem exec_sameConfig {i : Instr} (h : exec i s = .next t) : SameConfig s t := by
  obtain ⟨rfl, -⟩ | ⟨-, -, ⟨-, rfl⟩ | ⟨-, -, rfl⟩ | ⟨-, -, rfl⟩⟩ := exec_cases h <;> exact ⟨rfl, rfl⟩

theorem execLinkUp_sameConfig (h : execLinkUp s = .next t) : SameConfig s t := by
  obtain ⟨rfl, -⟩ | ⟨-, -, rfl⟩ := execLinkUp_cases h <;> exact ⟨rfl, rfl⟩

theorem execClose_sameConfig (h : execClose s = .next t) : SameConfig s t := by
  obtain ⟨rfl, -⟩ | ⟨-, rfl⟩ := execClose_cases h <;> exact ⟨rfl, rfl⟩

theorem runRequest_sameConfig {r : Request} (h : runRequest r s = .next t) : SameConfig s t := by
  cases r with
  | command i => exact exec_sameConfig h
  | linkUp => exact execLinkUp_sameConfig h
  | close => exact execClose_sameConfig h

theorem takeRequest_sameConfig (h : takeRequest s = .next t) : SameConfig s t := by
  obtain ⟨rfl, -⟩ | ⟨r, rs, -, -, hr⟩ := takeRequest_cases h
  · exact ⟨rfl, rfl⟩
  · have hrun : SameConfig { s with reqs := rs } t := runRequest_sameConfig hr
    exact ⟨hrun.cfg_eq, hrun.lineCfg_eq⟩

theorem acceptByte_sameConfig (h : acceptByte s = .next t) : SameConfig s t := by
  obtain ⟨rfl, -⟩ | ⟨b, -, -, -, rfl⟩ := acceptByte_cases h <;> exact ⟨rfl, rfl⟩

theorem endWrite_sameConfig {r : WriteResult} (h : endWrite r s = .next t) : SameConfig s t := by
  obtain ⟨rfl, -⟩ | ⟨-, -, rfl⟩ := endWrite_cases h <;> exact ⟨rfl, rfl⟩

theorem answerOpen_sameConfig {r : OpenResult} (h : answerOpen r s = .next t) : SameConfig s t := by
  obtain ⟨rfl, -⟩ | ⟨-, -, rfl⟩ | ⟨-, -, rfl⟩ := answerOpen_cases h <;> exact ⟨rfl, rfl⟩

/-- The one move that writes LINECFG: a successful configure sets it to its constants (R172, R173). -/
theorem answerConfigure_keptOrApplied {r : ConfigureResult} (h : answerConfigure r s = .next t) :
    ConfigKeptOrApplied s t := by
  obtain ⟨rfl, -⟩ | ⟨-, -, rfl⟩ | ⟨-, -, rfl⟩ := answerConfigure_cases h
  · exact ⟨rfl, .inl rfl⟩
  · exact ⟨rfl, .inr rfl⟩
  · exact ⟨rfl, .inl rfl⟩

theorem runMove_keptOrApplied {m : Move} (h : runMove m s = .next t) : ConfigKeptOrApplied s t := by
  cases m with
  | takeRequest => exact (takeRequest_sameConfig h).keptOrApplied
  | acceptByte => exact (acceptByte_sameConfig h).keptOrApplied
  | endWrite r => exact (endWrite_sameConfig h).keptOrApplied
  | answerOpen r => exact (answerOpen_sameConfig h).keptOrApplied
  | answerConfigure r => exact answerConfigure_keptOrApplied h
  | assertReset =>
    obtain rfl : s.resetMove = t := Host.Outcome.next.inj h
    exact ⟨rfl, .inl rfl⟩

/-- A step leaves the parameters, and leaves LINECFG or sets it to its constants (R7, R30). -/
theorem step_keptOrApplied (h : step s = .next t) : ConfigKeptOrApplied s t := by
  obtain rfl | ⟨m, ms, -, hm⟩ := step_cases h
  · exact ⟨rfl, .inl rfl⟩
  · have hmove : ConfigKeptOrApplied { s with env := ms } t := runMove_keptOrApplied hm
    exact ⟨hmove.cfg_eq, hmove.lineCfg⟩

end Sys2Proof.Machine

/-! ## The obligations of 00_scope.md -/

namespace Sys2Proof.Proofs

open Sys2Proof.Machine

/-- Settles O8: a w-bit field holds the integer's residue modulo 2^w, and its bytes add up to that value. -/
theorem operandBytesAreBigEndianResidues : Obligations.OperandBytesAreBigEndianResidues := by
  refine ⟨hi_lo_toNat, fun v h0 hv => ?_, fun v h0 hv => ⟨_, _, _, _, rfl, ?_⟩⟩
  · exact natCast_toNat_ofInt_of_lt 8 v h0 (by omega)
  · have hbytes := wordBytes_toNat (BitVec.ofInt 32 v)
    have hval := natCast_toNat_ofInt_of_lt 32 v h0 (by omega)
    omega

/-- Settles O48: the only write to LINECFG, by a successful configure, is of the constants themselves. -/
theorem parametersAndLineConfigAreConstant : Obligations.ParametersAndLineConfigAreConstant := by
  intro s t h
  obtain ⟨hcfg, hline⟩ := step_keptOrApplied h
  refine ⟨hcfg, fun hfixed => ?_⟩
  obtain hkept | hset := hline
  · exact hkept.trans hfixed
  · exact hset

end Sys2Proof.Proofs

/-! ## What a move leaves of the link, the log and the requests (10_state.md R27, R28, R36) -/

namespace Sys2Proof.Machine

variable {s t : State}

/-- Whatever a command's outcome, it leaves alone what is not its own (R99, R101, R170). -/
theorem exec_commandFrame {i : Instr} (h : exec i s = .next t) : CommandFrame s t := by
  obtain ⟨rfl, -⟩ | ⟨-, -, ⟨-, rfl⟩ | ⟨-, -, rfl⟩ | ⟨-, -, rfl⟩⟩ := exec_cases h <;>
    exact ⟨rfl, rfl, rfl, rfl, rfl, rfl, rfl, rfl⟩

/-- Both states have the same log and the same waiting requests. -/
structure SameLogAndQueue (s t : State) : Prop where
  txlog_eq : t.txlog = s.txlog
  reqs_eq  : t.reqs = s.reqs

/-- A request, once taken, neither emits a byte nor touches the requests behind it. -/
theorem runRequest_sameLogAndQueue {r : Request} (h : runRequest r s = .next t) : SameLogAndQueue s t := by
  cases r with
  | command i =>
    have hframe : CommandFrame s t := exec_commandFrame h
    exact ⟨hframe.txlog, hframe.reqs⟩
  | linkUp => obtain ⟨rfl, -⟩ | ⟨-, -, rfl⟩ := execLinkUp_cases h <;> exact ⟨rfl, rfl⟩
  | close => obtain ⟨rfl, -⟩ | ⟨-, rfl⟩ := execClose_cases h <;> exact ⟨rfl, rfl⟩

/-- Log and queue under one move: both stay, or a byte acceptance appends one byte, or a ready port takes the head. -/
theorem runMove_log_and_queue {m : Move} (h : runMove m s = .next t) :
    SameLogAndQueue s t ∨
    (m = .acceptByte ∧ t.reqs = s.reqs ∧ ∃ b, t.txlog = s.txlog ++ [b]) ∨
    (m = .takeRequest ∧ t.txlog = s.txlog ∧ s.portReady = true ∧ ∃ r, s.reqs = r :: t.reqs) := by
  cases m with
  | takeRequest =>
    obtain ⟨rfl, -⟩ | ⟨r, rs, hq, hready, hr⟩ := takeRequest_cases h
    · exact .inl ⟨rfl, rfl⟩
    · obtain ⟨hlog, hreqs⟩ := runRequest_sameLogAndQueue hr
      exact .inr (.inr ⟨rfl, hlog, hready, r, by rw [hq, hreqs]⟩)
  | acceptByte =>
    obtain ⟨rfl, -⟩ | ⟨b, -, -, -, rfl⟩ := acceptByte_cases h
    · exact .inl ⟨rfl, rfl⟩
    · exact .inr (.inl ⟨rfl, rfl, b, rfl⟩)
  | endWrite r => obtain ⟨rfl, -⟩ | ⟨-, -, rfl⟩ := endWrite_cases h <;> exact .inl ⟨rfl, rfl⟩
  | answerOpen r => obtain ⟨rfl, -⟩ | ⟨-, -, rfl⟩ | ⟨-, -, rfl⟩ := answerOpen_cases h <;> exact .inl ⟨rfl, rfl⟩
  | answerConfigure r =>
    obtain ⟨rfl, -⟩ | ⟨-, -, rfl⟩ | ⟨-, -, rfl⟩ := answerConfigure_cases h <;> exact .inl ⟨rfl, rfl⟩
  | assertReset =>
    obtain rfl : s.resetMove = t := Host.Outcome.next.inj h
    exact .inl ⟨rfl, rfl⟩

/-- Of the requests only a close changes the link at once; a link-up waits for its answers (R170, R172, R174). -/
theorem runRequest_link_of_ne_close {r : Request} (hr : r ≠ .close) (h : runRequest r s = .next t) :
    t.link = s.link := by
  cases r with
  | command i => exact (exec_commandFrame h).link
  | linkUp => obtain ⟨rfl, -⟩ | ⟨-, -, rfl⟩ := execLinkUp_cases h <;> rfl
  | close => exact absurd rfl hr

/-- The port's turn changes the link only where a ready port takes a close (R174). -/
theorem takeRequest_link (h : takeRequest s = .next t) (hne : t.link ≠ s.link) :
    s.portReady = true ∧ s.reqs.head? = some .close := by
  obtain ⟨rfl, -⟩ | ⟨r, rs, hq, hready, hr⟩ := takeRequest_cases h
  · exact absurd rfl hne
  · have hkept (hc : r ≠ .close) : t.link = s.link :=
      runRequest_link_of_ne_close (s := { s with reqs := rs }) hc hr
    have hclose : r = .close := by_contra fun hc => hne (hkept hc)
    exact ⟨hready, by simp [hq, hclose]⟩

end Sys2Proof.Machine

/-! ## A frame in flight (10_state.md R21, 45_uart_transport.md R176 to R181, 70_reset_and_hazards.md R231) -/

namespace Sys2Proof.Machine

variable {base : List Byte} {c : Instr} {s t : State}

/-- The hand-off of a command that fits puts its frame in flight, with no byte taken (R96). -/
theorem inFlight_handedOff (hcfg : s.cfg.Ok) (hup : s.link = .up) (hstage : s.linkStage = .notRunning)
    (hwf : c.wellFormed = true) (hfits : (encode s.cfg.opcodes c).length ≤ s.cfg.maxFrame) :
    InFlight s.txlog c (s.handedOff c (encode s.cfg.opcodes c)) := by
  obtain ⟨-, hmax, -⟩ := hcfg
  have hflen : (BitVec.ofNat 16 (encode s.cfg.opcodes c).length).toNat = (encode s.cfg.opcodes c).length :=
    Nat.mod_eq_of_lt (by omega)
  refine ⟨rfl, rfl, hwf, hup, hstage, hfits, hflen, rfl, rfl, ?_, Nat.zero_le _, by simp⟩
  rw [State.frameBytes, State.handedOff_flen, State.handedOff_buf, State.handedOff_cfg, hflen, Memory.slice_setAll]

/-- The byte the transport takes next is the frame's byte at `txi` (R104, R177). -/
theorem InFlight.next_byte (h : InFlight base c s) (hlt : s.txi < s.flen.toNat) :
    ∃ b, s.buf.get s.txi = some b ∧ (encode s.cfg.opcodes c)[s.txi]? = some b := by
  have hbyte : s.frameBytes[s.txi]? = some (s.buf.get s.txi) := by
    rw [State.frameBytes, Memory.getElem?_slice, if_pos hlt, Nat.zero_add]
  rw [h.buf_eq, List.getElem?_map] at hbyte
  obtain ⟨b, hb, hget⟩ := Option.map_eq_some_iff.mp hbyte
  exact ⟨b, hget.symm, hb⟩

/-- A frame in flight stays in flight when the transport takes its next byte (R177). -/
theorem InFlight.byteTaken {b : Byte} (h : InFlight base c s) (hb : (encode s.cfg.opcodes c)[s.txi]? = some b) :
    InFlight base c { s with txlog := s.txlog ++ [b], txi := s.txi + 1 } := by
  obtain ⟨hlt, -⟩ := List.getElem?_eq_some_iff.mp hb
  refine ⟨h.phase_sending, h.cur_eq, h.wellFormed, h.link_up, h.stage, h.fits, h.flen_eq, h.wp_eq, h.chk_eq, h.buf_eq,
    hlt, ?_⟩
  simp [h.txlog_eq, List.take_add_one, hb]

/-- With bytes left, a byte acceptance takes the frame's next byte (R177). -/
theorem InFlight.acceptByte_eq (h : InFlight base c s) (hlt : s.txi < s.flen.toNat) :
    ∃ b, (encode s.cfg.opcodes c)[s.txi]? = some b ∧
      acceptByte s = .next { s with txlog := s.txlog ++ [b], txi := s.txi + 1 } := by
  obtain ⟨b, hget, hb⟩ := h.next_byte hlt
  exact ⟨b, hb, by simp [acceptByte, h.phase_sending, hlt, hget]⟩

/-- A byte acceptance never takes a frame out of flight: it takes the next byte, or is skipped (log 7). -/
theorem InFlight.acceptByte_kept (h : InFlight base c s) (ha : acceptByte s = .next t) :
    InFlight base c t ∧ t.rsp = s.rsp ∧ t.reqs = s.reqs := by
  obtain ⟨rfl, -⟩ | ⟨b, -, hlt, hget, rfl⟩ := acceptByte_cases ha
  · exact ⟨h, rfl, rfl⟩
  · obtain ⟨b', hget', hb'⟩ := h.next_byte hlt
    obtain rfl : b = b' := Option.some.inj (hget.symm.trans hget')
    exact ⟨h.byteTaken hb', rfl, rfl⟩

/-- Every move answers while a frame is in flight: the bytes it could read are all written. -/
theorem InFlight.runMove_next (h : InFlight base c s) (m : Move) : ∃ t, runMove m s = .next t :=
  Machine.runMove_next m s fun _ _ hlt => (h.next_byte hlt).imp fun _ hb => hb.1

/-- What a move can do to a frame in flight: keep it in flight, end its write with an allowed result, or reset the block
(R45, R176 to R178, R231). Requests wait, and no answer of a link-up is due. -/
theorem InFlight.runMove_cases (h : InFlight base c s) {m : Move} (hm : runMove m s = .next t) :
    (InFlight base c t ∧ t.rsp = s.rsp ∧ t.reqs = s.reqs) ∨
    (∃ r : WriteResult, m = .endWrite r ∧ r.allowed s = true ∧ t = s.respond r.status 0) ∨
    (m = .assertReset ∧ t = s.resetMove) := by
  cases m with
  | takeRequest =>
    obtain rfl : s = t := Host.Outcome.next.inj ((takeRequest_of_busy h.not_ready).symm.trans hm)
    exact .inl ⟨h, rfl, rfl⟩
  | acceptByte => exact .inl (h.acceptByte_kept hm)
  | endWrite r =>
    obtain ⟨rfl, -⟩ | ⟨-, hallowed, rfl⟩ := endWrite_cases hm
    · exact .inl ⟨h, rfl, rfl⟩
    · exact .inr (.inl ⟨r, rfl, hallowed, rfl⟩)
  | answerOpen r =>
    obtain ⟨rfl, -⟩ | ⟨hstage, -⟩ | ⟨hstage, -⟩ := answerOpen_cases hm
    · exact .inl ⟨h, rfl, rfl⟩
    · cases h.stage.symm.trans hstage
    · cases h.stage.symm.trans hstage
  | answerConfigure r =>
    obtain ⟨rfl, -⟩ | ⟨hstage, -⟩ | ⟨hstage, -⟩ := answerConfigure_cases hm
    · exact .inl ⟨h, rfl, rfl⟩
    · cases h.stage.symm.trans hstage
    · cases h.stage.symm.trans hstage
  | assertReset => exact .inr (.inr ⟨rfl, (Host.Outcome.next.inj hm).symm⟩)

/-- The same for a step: the frame stays in flight, or it is as after a result or a reset, apart from the moves used. -/
theorem InFlight.step_cases (h : InFlight base c s) :
    ∃ t, step s = .next t ∧
      ((InFlight base c t ∧ t.rsp = s.rsp ∧ t.reqs = s.reqs) ∨
       (∃ (r : WriteResult) (ms : List Move), r.allowed s = true ∧ t = { s with env := ms }.respond r.status 0) ∨
       (∃ ms : List Move, t = { s with env := ms }.resetMove)) := by
  cases he : s.env with
  | nil => exact ⟨s, step_of_no_move he, .inl ⟨h, rfl, rfl⟩⟩
  | cons m ms =>
    have hms : InFlight base c { s with env := ms } := h.withInputs s.reqs ms
    obtain ⟨t, ht⟩ := hms.runMove_next m
    refine ⟨t, (step_of_move m ms he).trans ht, ?_⟩
    obtain hkept | ⟨r, -, hallowed, rfl⟩ | ⟨-, rfl⟩ := hms.runMove_cases ht
    · exact .inl hkept
    · exact .inr (.inl ⟨r, ms, hallowed, rfl⟩)
    · exact .inr (.inr ⟨ms, rfl⟩)

end Sys2Proof.Machine

/-! ## Every step keeps the invariant (10_state.md R20 to R23, R29, R31) -/

namespace Sys2Proof.Machine

variable {s t : State}

/-- The subcause rule of R29, for a response that meets it. -/
theorem subcause_eq_zero_of_some {code : Status} {sub : Fin 4} (h : code ≠ .deviceUnavailable → sub = 0) :
    ∀ r : Response, some ⟨code, sub⟩ = some r → r.code ≠ .deviceUnavailable → r.subcause = 0 := by
  rintro r ⟨⟩
  exact h

/-- In a good state with a link-up running the block is at rest: no frame is in flight then (R172). -/
theorem Good.atRest_of_stage (h : Good s) (hstage : s.linkStage ≠ .notRunning) : AtRest s := by
  obtain hrest | ⟨base, c, hfly⟩ := h.mode
  · exact hrest
  · exact absurd hfly.stage hstage

/-- In a good state with a link-up running the link is Down (R172). -/
theorem Good.stage_down (h : Good s) (hstage : s.linkStage ≠ .notRunning) : s.link = .down :=
  (h.atRest_of_stage hstage).stage_down hstage

/-- In a good state in Sending a frame is in flight. -/
theorem Good.inFlight_of_sending (h : Good s) (hphase : s.phase = .sending) : ∃ base c, InFlight base c s := by
  obtain hrest | hfly := h.mode
  · cases hrest.phase_idle.symm.trans hphase
  · exact hfly

/-- A move that leaves the datapath alone and the block at rest keeps the invariant, if its response meets R29. -/
theorem Good.of_sameDatapath (h : Good s) (hdata : SameDatapath s t) (hconfig : ConfigKeptOrApplied s t)
    (hrsp : ∀ r, t.rsp = some r → r.code ≠ .deviceUnavailable → r.subcause = 0) (hrest : AtRest t) : Good t where
  cfg_ok := by rw [hconfig.cfg_eq]; exact h.cfg_ok
  lineCfg_eq := hconfig.lineCfg.elim (·.trans h.lineCfg_eq) id
  buf_wf := by rw [hdata.buf]; exact h.buf_wf
  buf_below := by rw [hdata.buf, hconfig.cfg_eq]; exact h.buf_below
  wp_le := by rw [hdata.wp, hconfig.cfg_eq]; exact h.wp_le
  txi_le := by rw [hdata.txi]; exact h.txi_le
  rsp_ok := hrsp
  mode := .inl hrest

/-- A response that meets R29 keeps the invariant (R200). -/
theorem Good.respond (h : Good s) {code : Status} {sub : Fin 4} (hsub : code ≠ .deviceUnavailable → sub = 0) :
    Good (s.respond code sub) :=
  h.of_sameDatapath ⟨rfl, rfl, rfl, rfl, rfl, rfl⟩ ⟨rfl, .inl rfl⟩ (subcause_eq_zero_of_some hsub)
    ⟨rfl, rfl, h.stage_down⟩

/-- An early response of Execute keeps the invariant: on a ready port it changes only `rsp` (R202, R205). -/
theorem Good.withResponse_of_ready (h : Good s) (hready : s.portReady = true) (code : Status) :
    Good { s with rsp := some ⟨code, 0⟩ } := by
  rw [← State.respond_of_ready _ _ _ hready]
  exact h.respond fun _ => rfl

/-- The hand-off of a frame that fits keeps the invariant (R104). -/
theorem Good.handedOff {i : Instr} (h : Good s) (hready : s.portReady = true) (hup : s.link = .up)
    (hwf : i.wellFormed = true) (hfits : (encode s.cfg.opcodes i).length ≤ s.cfg.maxFrame) :
    Good (s.handedOff i (encode s.cfg.opcodes i)) where
  cfg_ok := h.cfg_ok
  lineCfg_eq := h.lineCfg_eq
  buf_wf := Memory.wf_setAll _ _ _ h.buf_wf
  buf_below := Memory.below_setAll _ _ _ _ (by rwa [State.handedOff_cfg, Nat.zero_add]) h.buf_below
  wp_le := hfits
  txi_le := Nat.zero_le _
  rsp_ok := h.rsp_ok
  mode := by
    obtain ⟨-, -, hstage⟩ := s.portReady_iff.mp hready
    exact .inr ⟨s.txlog, i, inFlight_handedOff h.cfg_ok hup hstage hwf hfits⟩

theorem exec_good {i : Instr} (h : Good s) (he : exec i s = .next t) : Good t := by
  obtain ⟨rfl, -⟩ | ⟨hready, hwf, ⟨-, rfl⟩ | ⟨-, -, rfl⟩ | ⟨hup, hfits, rfl⟩⟩ := exec_cases he
  · exact h
  · exact h.withResponse_of_ready hready .deviceUnavailable
  · exact h.withResponse_of_ready hready .payloadTooLarge
  · exact h.handedOff hready hup hwf hfits

theorem execLinkUp_good (h : Good s) (he : execLinkUp s = .next t) : Good t := by
  obtain ⟨rfl, -⟩ | ⟨hready, hdown, rfl⟩ := execLinkUp_cases he
  · exact h
  · obtain ⟨hphase, hcur, -⟩ := AtRest.of_ready hready
    exact h.of_sameDatapath ⟨rfl, rfl, rfl, rfl, rfl, rfl⟩ ⟨rfl, .inl rfl⟩ h.rsp_ok ⟨hphase, hcur, fun _ => hdown⟩

theorem execClose_good (h : Good s) (he : execClose s = .next t) : Good t := by
  obtain ⟨rfl, -⟩ | ⟨hready, rfl⟩ := execClose_cases he
  · exact h
  · obtain ⟨hphase, hcur, -⟩ := AtRest.of_ready hready
    exact h.of_sameDatapath ⟨rfl, rfl, rfl, rfl, rfl, rfl⟩ ⟨rfl, .inl rfl⟩ (subcause_eq_zero_of_some fun _ => rfl)
      ⟨hphase, hcur, fun _ => rfl⟩

theorem runRequest_good {r : Request} (h : Good s) (he : runRequest r s = .next t) : Good t := by
  cases r with
  | command i => exact exec_good h he
  | linkUp => exact execLinkUp_good h he
  | close => exact execClose_good h he

theorem takeRequest_good (h : Good s) (he : takeRequest s = .next t) : Good t := by
  obtain ⟨rfl, -⟩ | ⟨r, rs, -, -, hr⟩ := takeRequest_cases he
  · exact h
  · exact runRequest_good (h.withInputs rs s.env) hr

theorem acceptByte_good (h : Good s) (he : acceptByte s = .next t) : Good t := by
  obtain ⟨rfl, -⟩ | ⟨b, hphase, hlt, -, rfl⟩ := acceptByte_cases he
  · exact h
  · obtain ⟨base, c, hfly⟩ := h.inFlight_of_sending hphase
    have htxi : s.txi + 1 ≤ 65535 := by have := s.flen.isLt; omega
    exact ⟨h.cfg_ok, h.lineCfg_eq, h.buf_wf, h.buf_below, h.wp_le, htxi, h.rsp_ok,
      .inr ⟨base, c, (hfly.acceptByte_kept he).1⟩⟩

theorem endWrite_good {r : WriteResult} (h : Good s) (he : endWrite r s = .next t) : Good t := by
  obtain ⟨rfl, -⟩ | ⟨-, -, rfl⟩ := endWrite_cases he
  · exact h
  · exact h.respond fun _ => rfl

/-- A failed link-up keeps the invariant, whatever its subcause (R172, R203). -/
theorem Good.failLinkUp (h : Good s) (sub : Fin 4) : Good (s.failLinkUp sub) :=
  h.of_sameDatapath ⟨rfl, rfl, rfl, rfl, rfl, rfl⟩ ⟨rfl, .inl rfl⟩ (subcause_eq_zero_of_some fun hne => absurd rfl hne)
    ⟨rfl, rfl, fun _ => rfl⟩

theorem answerOpen_good {r : OpenResult} (h : Good s) (he : answerOpen r s = .next t) : Good t := by
  obtain ⟨rfl, -⟩ | ⟨hstage, -, rfl⟩ | ⟨-, -, rfl⟩ := answerOpen_cases he
  · exact h
  · have hrunning : s.linkStage ≠ .notRunning := by simp [hstage]
    obtain ⟨hphase, hcur, hdown⟩ := h.atRest_of_stage hrunning
    exact h.of_sameDatapath ⟨rfl, rfl, rfl, rfl, rfl, rfl⟩ ⟨rfl, .inl rfl⟩ h.rsp_ok
      ⟨hphase, hcur, fun _ => hdown hrunning⟩
  · exact h.failLinkUp r.subcause

theorem answerConfigure_good {r : ConfigureResult} (h : Good s) (he : answerConfigure r s = .next t) : Good t := by
  obtain ⟨rfl, -⟩ | ⟨-, -, rfl⟩ | ⟨-, -, rfl⟩ := answerConfigure_cases he
  · exact h
  · exact h.of_sameDatapath ⟨rfl, rfl, rfl, rfl, rfl, rfl⟩ ⟨rfl, .inr rfl⟩ (subcause_eq_zero_of_some fun _ => rfl)
      ⟨rfl, rfl, fun hne => absurd rfl hne⟩
  · exact h.failLinkUp 3

/-- A reset leaves a good state, whatever free values the unspecified registers take (R230, log 3). -/
theorem Good.resetMove (h : Good s) : Good s.resetMove where
  cfg_ok := h.cfg_ok
  lineCfg_eq := h.lineCfg_eq
  buf_wf := rfl
  buf_below := rfl
  wp_le := Nat.le_of_lt_succ (Nat.mod_lt _ (Nat.succ_pos _))
  txi_le := by
    have := (Config.freeTxi s.resets).isLt
    rw [State.resetMove_txi]
    omega
  rsp_ok := by simp
  mode := .inl ⟨rfl, rfl, fun hne => absurd rfl hne⟩

theorem runMove_good {m : Move} (h : Good s) (hm : runMove m s = .next t) : Good t := by
  cases m with
  | takeRequest => exact takeRequest_good h hm
  | acceptByte => exact acceptByte_good h hm
  | endWrite r => exact endWrite_good h hm
  | answerOpen r => exact answerOpen_good h hm
  | answerConfigure r => exact answerConfigure_good h hm
  | assertReset =>
    obtain rfl : s.resetMove = t := Host.Outcome.next.inj hm
    exact h.resetMove

theorem step_good (h : Good s) (hs : step s = .next t) : Good t := by
  obtain rfl | ⟨m, ms, -, hm⟩ := step_cases hs
  · exact h
  · exact runMove_good (h.withInputs s.reqs ms) hm

end Sys2Proof.Machine

/-! ## A command from its acceptance to its response (10_state.md R36, 40_codec.md R90, 45_uart_transport.md R177) -/

namespace Sys2Proof.Machine

variable {base : List Byte} {c i : Instr} {rs : List Request} {ms : List Move} {s t : State}

/-- A ready port whose turn comes runs the command offered first, with that request and that move gone (R36). -/
theorem step_of_offered (hready : s.portReady = true) (hq : s.reqs = .command i :: rs)
    (he : s.env = .takeRequest :: ms) : step s = exec i { s with reqs := rs, env := ms } := by
  rw [step_of_move _ _ he]
  exact takeRequest_of_ready (s := { s with env := ms }) hq hready

/-- Where the block can send, exec of a well-formed command that fits hands its frame off (R90). -/
theorem exec_of_canSend (h : CanSend s) (hwf : i.wellFormed = true)
    (hfits : (encode s.cfg.opcodes i).length ≤ s.cfg.maxFrame) :
    exec i s = .next (s.handedOff i (encode s.cfg.opcodes i)) := by
  have hlen : ¬ s.cfg.maxFrame < frameLength (payload i).length := by
    rw [length_encode] at hfits
    omega
  rw [exec_eq_runCommand, runCommand_eq, if_pos ⟨h.ready, hwf⟩, if_neg (by simp [h.link_up]), if_neg hlen, encode]

/-- The first step of an accepted command puts its frame in flight (R90, R96). -/
theorem step_accepts (h : CanSend s) (hwf : i.wellFormed = true)
    (hfits : (encode s.cfg.opcodes i).length ≤ s.cfg.maxFrame) (hq : s.reqs = .command i :: rs)
    (he : s.env = .takeRequest :: ms) :
    ∃ t, step s = .next t ∧ InFlight s.txlog i t ∧ t.cfg = s.cfg ∧ t.txi = 0 ∧ t.reqs = rs ∧ t.env = ms := by
  have hsend : CanSend { s with reqs := rs, env := ms } := ⟨h.ready, h.link_up, h.cfg_ok⟩
  obtain ⟨-, -, hstage⟩ := s.portReady_iff.mp h.ready
  exact ⟨_, (step_of_offered h.ready hq he).trans (exec_of_canSend hsend hwf hfits),
    inFlight_handedOff (s := { s with reqs := rs, env := ms }) h.cfg_ok h.link_up hstage hwf hfits, rfl, rfl, rfl, rfl⟩

/-- k byte acceptances in a row, with as many bytes left, take the next k bytes of the frame (R177). -/
theorem InFlight.accepts_run (k : Nat) (h : InFlight base c s) (hk : s.txi + k ≤ (encode s.cfg.opcodes c).length)
    (he : s.env = List.replicate k .acceptByte ++ ms) :
    ∃ t, Claims.runs k s t ∧ InFlight base c t ∧ t.cfg = s.cfg ∧ t.txi = s.txi + k ∧ t.reqs = s.reqs ∧ t.env = ms := by
  induction k generalizing s with
  | zero => exact ⟨s, rfl, h, rfl, rfl, rfl, by simpa using he⟩
  | succ k ih =>
    have hs : InFlight base c { s with env := List.replicate k .acceptByte ++ ms } := h.withInputs s.reqs _
    have hlt : s.txi < s.flen.toNat := by rw [h.flen_eq]; omega
    obtain ⟨b, hb, haccept⟩ := hs.acceptByte_eq hlt
    have hstep : step s = acceptByte { s with env := List.replicate k .acceptByte ++ ms } :=
      step_of_move _ _ (by rw [he, List.replicate_succ, List.cons_append])
    obtain ⟨t, hrun, hfly, hcfg, htxi, hreqs, henv⟩ := ih (hs.byteTaken hb) (by dsimp only; omega) rfl
    exact ⟨t, run_succ_of_step k (hstep.trans haccept) hrun, hfly, hcfg, by dsimp only at htxi; omega, hreqs, henv⟩

/-- An allowed result ends the write: its response, what was taken is in the log, and the port is ready (R178, R181). -/
theorem InFlight.step_endWrite {r : WriteResult} (h : InFlight base c s) (hallowed : r.allowed s = true)
    (he : s.env = .endWrite r :: ms) :
    ∃ t, step s = .next t ∧ t.txlog = base ++ (encode s.cfg.opcodes c).take s.txi ∧ t.rsp = some ⟨r.status, 0⟩ ∧
      t.portReady = true ∧ t.link = .up ∧ t.reqs = s.reqs ∧ t.env = ms := by
  have hend : endWrite r { s with env := ms } = .next ({ s with env := ms }.respond r.status 0) :=
    if_pos ⟨h.phase_sending, by cases r <;> exact hallowed⟩
  exact ⟨_, (step_of_move _ _ he).trans hend, h.txlog_eq, rfl, (State.portReady_iff _).mpr ⟨rfl, rfl, h.stage⟩,
    h.link_up, rfl, rfl⟩

/-- The whole life of an accepted command whose write ends after k bytes, by a result allowed there (R177 to R181). -/
theorem write_run {k : Nat} {r : WriteResult} (h : CanSend s) (hwf : i.wellFormed = true)
    (hfits : (encode s.cfg.opcodes i).length ≤ s.cfg.maxFrame) (hk : k ≤ (encode s.cfg.opcodes i).length)
    (hallowed : ∀ u : State, u.txi = k → u.flen.toNat = (encode s.cfg.opcodes i).length → r.allowed u = true)
    (hq : s.reqs = .command i :: rs)
    (he : s.env = .takeRequest :: (List.replicate k .acceptByte ++ .endWrite r :: ms)) :
    ∃ t, Claims.runs (k + 2) s t ∧ t.txlog = s.txlog ++ (encode s.cfg.opcodes i).take k ∧
      t.rsp = some ⟨r.status, 0⟩ ∧ t.portReady = true ∧ t.link = .up ∧ t.reqs = rs ∧ t.env = ms := by
  obtain ⟨s1, hstep1, hfly1, hcfg1, htxi1, hreqs1, henv1⟩ := step_accepts h hwf hfits hq he
  obtain ⟨s2, hrun, hfly2, hcfg2, htxi2, hreqs2, henv2⟩ :=
    hfly1.accepts_run k (by rw [htxi1, hcfg1]; omega) henv1
  have hcfg : s2.cfg = s.cfg := hcfg2.trans hcfg1
  have htxi : s2.txi = k := by omega
  obtain ⟨t, hstep2, hlog, hrsp, hready, hlink, hreqs, henv⟩ :=
    hfly2.step_endWrite (hallowed s2 htxi (by rw [hfly2.flen_eq, hcfg])) henv2
  refine ⟨t, ?_, by rw [hlog, hcfg, htxi], hrsp, hready, hlink, hreqs.trans (hreqs2.trans hreqs1), henv⟩
  exact run_succ_of_step (k + 1) hstep1 (run_add hrun (run_succ_of_step 0 hstep2 rfl))

end Sys2Proof.Machine

/-! ## The obligations of 10_state.md -/

namespace Sys2Proof.Proofs

open Sys2Proof.Machine

/-- Settles O33: a frame in flight stays there, or is as after an allowed result or after a reset; an allowed result
says how `txi` stands to the frame's length, and so which part of the frame is in the log. -/
theorem stepOfAFrameInFlight : Obligations.StepOfAFrameInFlight := by
  intro base c s h
  obtain ⟨t, hstep, hkept | ⟨r, ms, hallowed, rfl⟩ | ⟨ms, rfl⟩⟩ := h.step_cases
  · exact ⟨t, hstep, .inl hkept⟩
  · refine ⟨_, hstep, .inr ?_⟩
    cases r with
    | ok =>
      have htxi : s.txi = s.flen.toNat := of_decide_eq_true hallowed
      have hlog : s.txlog = base ++ encode s.cfg.opcodes c := by
        rw [h.txlog_eq, htxi, h.flen_eq, List.take_length]
      exact .inl ⟨rfl, rfl, h.link_up, rfl, hlog⟩
    | shortWrite =>
      have htxi : s.txi < s.flen.toNat := of_decide_eq_true hallowed
      exact .inr (.inl ⟨rfl, rfl, h.link_up, rfl, s.txi, h.flen_eq ▸ htxi, h.txlog_eq⟩)
    | ioError => exact .inr (.inr (.inl ⟨rfl, rfl, h.link_up, rfl, s.txi, h.txi_le, h.txlog_eq⟩))
  · exact ⟨_, hstep, .inr (.inr (.inr (.inr ⟨rfl, rfl, rfl, rfl, rfl⟩)))⟩

/-- Settles O45: each move keeps the invariant, and the moves and requests left are no part of it. -/
theorem stepKeepsTheInvariant : Obligations.StepKeepsTheInvariant :=
  fun _ _ => step_good

/-- Settles O34: the write that ends with Ok after all n bytes of the frame. -/
theorem acceptedFrameIsDelivered : Obligations.AcceptedFrameIsDelivered := by
  intro i rs ms s hsend hwf hfits hq he
  have hallowed (u : State) (htxi : u.txi = (encode s.cfg.opcodes i).length)
      (hflen : u.flen.toNat = (encode s.cfg.opcodes i).length) : WriteResult.ok.allowed u = true :=
    decide_eq_true (htxi.trans hflen.symm)
  obtain ⟨t, hrun, hlog, hrest⟩ := write_run hsend hwf hfits le_rfl hallowed hq he
  exact ⟨t, hrun, by rw [hlog, List.take_length], hrest⟩

/-- Settles O40: by the move, each of which is one of the four or leaves the link. -/
theorem onlyLinkOperationsChangeTheLink : Obligations.OnlyLinkOperationsChangeTheLink := by
  intro m s t h hne
  cases m with
  | takeRequest =>
    obtain ⟨hready, hhead⟩ := takeRequest_link h hne
    exact .inr (.inr (.inl ⟨rfl, hready, hhead⟩))
  | acceptByte => obtain ⟨rfl, -⟩ | ⟨b, -, -, -, rfl⟩ := acceptByte_cases h <;> exact absurd rfl hne
  | endWrite r => obtain ⟨rfl, -⟩ | ⟨-, -, rfl⟩ := endWrite_cases h <;> exact absurd rfl hne
  | answerOpen r =>
    obtain ⟨rfl, -⟩ | ⟨hstage, -⟩ | ⟨hstage, -⟩ := answerOpen_cases h
    · exact absurd rfl hne
    · exact .inl ⟨r, rfl, hstage⟩
    · exact .inl ⟨r, rfl, hstage⟩
  | answerConfigure r =>
    obtain ⟨rfl, -⟩ | ⟨hstage, -⟩ | ⟨hstage, -⟩ := answerConfigure_cases h
    · exact absurd rfl hne
    · exact .inr (.inl ⟨r, rfl, hstage⟩)
    · exact .inr (.inl ⟨r, rfl, hstage⟩)
  | assertReset => exact .inr (.inr (.inr rfl))

/-- Settles O47: only a byte acceptance writes the log, and it appends one byte. -/
theorem logIsAppendOnly : Obligations.LogIsAppendOnly := by
  intro s t h
  obtain rfl | ⟨m, ms, -, hm⟩ := step_cases h
  · exact .inl rfl
  · obtain hsame | ⟨-, -, hbyte⟩ | ⟨-, hlog, -⟩ := runMove_log_and_queue hm
    · exact .inl hsame.txlog_eq
    · exact .inr hbyte
    · exact .inl hlog

/-- Settles O49: only the port's turn writes the queue, and a ready port takes its head. -/
theorem requestsAreTakenInOrder : Obligations.RequestsAreTakenInOrder := by
  intro s t h
  obtain rfl | ⟨m, ms, -, hm⟩ := step_cases h
  · exact .inl rfl
  · obtain hsame | ⟨-, hreqs, -⟩ | ⟨-, -, htaken⟩ := runMove_log_and_queue hm
    · exact .inl hsame.reqs_eq
    · exact .inl hreqs
    · exact .inr htaken

/-- Settles O24: readiness as its three conditions, of which a frame in flight fails the first. -/
theorem busyPortKeepsRequestsWaiting : Obligations.BusyPortKeepsRequestsWaiting :=
  ⟨State.portReady_iff, fun _ => takeRequest_of_busy, fun _ _ _ => InFlight.not_ready⟩

/-- Settles O25: the port's turn runs the head of the queue. -/
theorem stepRunsTheOfferedCommand : Obligations.StepRunsTheOfferedCommand :=
  fun _ _ _ _ hready _ hq he => step_of_offered hready hq he

/-- Settles O26: a word that decodes is offered first, on a port made ready, with the port's turn next. -/
theorem stepRunsThePlacedWord : Obligations.StepRunsThePlacedWord := by
  intro s nbits w i hdecode
  have hplaced : s.withFetchWord nbits w = s.offerFirst i := by simp [State.withFetchWord, hdecode]
  have hready : (s.offerFirst i).portReady = true := (State.portReady_iff _).mpr ⟨rfl, rfl, rfl⟩
  rw [hplaced]
  exact step_of_offered hready (State.offerFirst_reqs s i) (State.offerFirst_env s i)

/-- Settles O43: field by field. -/
theorem powerOnValues : Obligations.PowerOnValues :=
  ⟨State.reset_phase, State.reset_cur, State.reset_txlog, State.reset_link, State.reset_rsp, State.reset_lineCfg⟩

/-- Settles O44: the reference parameters are admissible, the registers are zero and the block is at rest. -/
theorem resetIsGood : Obligations.ResetIsGood where
  cfg_ok := Config.reference_ok
  lineCfg_eq := State.reset_lineCfg
  buf_wf := Memory.wf_nil
  buf_below := Memory.below_nil _
  wp_le := Nat.zero_le _
  txi_le := Nat.zero_le _
  rsp_ok := by simp
  mode := .inl ⟨State.reset_phase, State.reset_cur, fun hne => absurd State.reset_linkStage hne⟩

/-- Settles O50: the constants by value, and that no command writes LINECFG by what every command leaves alone. -/
theorem lineConfigurationValues : Obligations.LineConfigurationValues :=
  ⟨rfl, rfl, rfl, rfl, rfl, rfl, rfl, rfl, fun _ _ _ h => (exec_commandFrame h).lineCfg⟩

end Sys2Proof.Proofs

/-! ## What the log gains over a run (20_memory.md R42, R45, R48) -/

namespace Sys2Proof.Machine

variable {base base' base'' : List Byte} {c : Instr} {cfg : Config} {q q' q'' : List Request} {s t : State}

/-- From log `base` with the requests `q` waiting to log `base'` with `q'` waiting: the log has gained prefixes of
frames of well-formed commands that fit, and those commands and then `q'` stand in `q` in this order. -/
def LogExtends (cfg : Config) (base : List Byte) (q : List Request) (base' : List Byte) (q' : List Request) : Prop :=
  ∃ sent : List (Instr × Nat),
    base' = base ++ sent.flatMap (fun e => (encode cfg.opcodes e.1).take e.2) ∧
    (∀ e ∈ sent, e.1.wellFormed = true ∧ (encode cfg.opcodes e.1).length ≤ cfg.maxFrame) ∧
    ((sent.map fun e => Request.command e.1) ++ q').Sublist q

/-- Requests may leave the queue without a byte in the log. -/
theorem LogExtends.of_sublist (cfg : Config) (base : List Byte) (h : q'.Sublist q) :
    LogExtends cfg base q base q' :=
  ⟨[], by simp, by simp, h⟩

/-- The command at the head of the queue leaves it, with the first bytes of its frame in the log. -/
theorem LogExtends.of_firstBytes (base : List Byte) (q : List Request) (n : Nat) (hwf : c.wellFormed = true)
    (hfits : (encode cfg.opcodes c).length ≤ cfg.maxFrame) :
    LogExtends cfg base (.command c :: q) (base ++ (encode cfg.opcodes c).take n) q :=
  ⟨[(c, n)], by simp, List.forall_mem_singleton.mpr ⟨hwf, hfits⟩, List.Sublist.refl _⟩

theorem LogExtends.trans (h : LogExtends cfg base q base' q') (h' : LogExtends cfg base' q' base'' q'') :
    LogExtends cfg base q base'' q'' := by
  obtain ⟨sent, rfl, hsent, hsub⟩ := h
  obtain ⟨sent', rfl, hsent', hsub'⟩ := h'
  refine ⟨sent ++ sent', by simp, fun e he => (List.mem_append.mp he).elim (hsent e) (hsent' e), ?_⟩
  rw [List.map_append, List.append_assoc]
  exact (hsub'.append_left _).trans hsub

/-- What a state still has to account for: `base` is its log without the bytes of a frame in flight, and `q` its waiting
requests, with the command in flight back at their head. -/
inductive Pending (s : State) : List Byte → List Request → Prop
  | atRest (h : AtRest s) : Pending s s.txlog s.reqs
  | inFlight {base : List Byte} {c : Instr} (h : InFlight base c s) : Pending s base (.command c :: s.reqs)

/-- The bytes of a frame in flight that the transport has taken are the first of that frame (R45). -/
theorem InFlight.logExtends (h : InFlight base c s) :
    LogExtends s.cfg base (.command c :: s.reqs) s.txlog s.reqs := by
  rw [h.txlog_eq]
  exact .of_firstBytes base s.reqs s.txi h.wellFormed h.fits

theorem Pending.logExtends (h : Pending s base q) : LogExtends s.cfg base q s.txlog s.reqs := by
  cases h with
  | atRest _ => exact .of_sublist s.cfg s.txlog (List.Sublist.refl _)
  | inFlight hfly => exact hfly.logExtends

/-- A good state in Idle is at rest. -/
theorem Good.atRest_of_idle (h : Good s) (hidle : s.phase = .idle) : AtRest s := by
  obtain hrest | ⟨base, c, hfly⟩ := h.mode
  · exact hrest
  · cases hidle.symm.trans hfly.phase_sending

/-- A request that a ready port takes leaves the block at rest, or is a command whose frame is now in flight, with no
byte of it in the log (R36, R48). -/
theorem runRequest_atRest_or_inFlight {r : Request} (h : Good s) (hready : s.portReady = true)
    (hr : runRequest r s = .next t) : AtRest t ∨ ∃ c, r = .command c ∧ InFlight s.txlog c t := by
  obtain ⟨hidle, -, hstage⟩ := s.portReady_iff.mp hready
  have hrest : t.phase = .idle → AtRest t := (runRequest_good h hr).atRest_of_idle
  cases r with
  | command c =>
    obtain ⟨rfl, -⟩ | ⟨-, hwf, ⟨-, rfl⟩ | ⟨-, -, rfl⟩ | ⟨hup, hfits, rfl⟩⟩ := exec_cases hr
    · exact .inl (hrest hidle)
    · exact .inl (hrest hidle)
    · exact .inl (hrest hidle)
    · exact .inr ⟨c, rfl, inFlight_handedOff h.cfg_ok hup hstage hwf hfits⟩
  | linkUp => obtain ⟨rfl, -⟩ | ⟨-, -, rfl⟩ := execLinkUp_cases hr <;> exact .inl (hrest hidle)
  | close => obtain ⟨rfl, -⟩ | ⟨-, rfl⟩ := execClose_cases hr <;> exact .inl (hrest hidle)

/-- Apart from the port's turn, no move takes an Idle block out of Idle, nor touches its log or its requests: bytes are
accepted in Sending only (R42, R177). -/
theorem runMove_of_idle {m : Move} (hm : m ≠ .takeRequest) (hidle : s.phase = .idle) (h : runMove m s = .next t) :
    t.phase = .idle ∧ SameLogAndQueue s t := by
  cases m with
  | takeRequest => exact absurd rfl hm
  | acceptByte =>
    obtain ⟨rfl, -⟩ | ⟨b, hsending, -⟩ := acceptByte_cases h
    · exact ⟨hidle, rfl, rfl⟩
    · cases hidle.symm.trans hsending
  | endWrite r => obtain ⟨rfl, -⟩ | ⟨-, -, rfl⟩ := endWrite_cases h <;> exact ⟨by simp [hidle], rfl, rfl⟩
  | answerOpen r =>
    obtain ⟨rfl, -⟩ | ⟨-, -, rfl⟩ | ⟨-, -, rfl⟩ := answerOpen_cases h <;> exact ⟨by simp [hidle], rfl, rfl⟩
  | answerConfigure r =>
    obtain ⟨rfl, -⟩ | ⟨-, -, rfl⟩ | ⟨-, -, rfl⟩ := answerConfigure_cases h <;>
      exact ⟨by simp [hidle], rfl, rfl⟩
  | assertReset =>
    obtain rfl : s.resetMove = t := Host.Outcome.next.inj h
    exact ⟨rfl, rfl, rfl⟩

/-- A move of a good state at rest: a request may leave the queue, and then its frame may be in flight. -/
theorem AtRest.runMove_pending {m : Move} (h : AtRest s) (hgood : Good s) (hm : runMove m s = .next t) :
    ∃ q', Pending t s.txlog q' ∧ q'.Sublist s.reqs := by
  by_cases hturn : m = .takeRequest
  · subst hturn
    obtain ⟨rfl, -⟩ | ⟨r, rs, hq, hready, hr⟩ := takeRequest_cases hm
    · exact ⟨_, .atRest h, List.Sublist.refl _⟩
    · obtain ⟨hlog, hreqs⟩ := runRequest_sameLogAndQueue hr
      have hready' : State.portReady { s with reqs := rs } = true := hready
      rw [hq]
      obtain hrest | ⟨c, rfl, hfly⟩ := runRequest_atRest_or_inFlight (hgood.withInputs rs s.env) hready' hr
      · exact ⟨t.reqs, hlog ▸ .atRest hrest, hreqs ▸ List.sublist_cons_self r rs⟩
      · exact ⟨_, .inFlight hfly, by rw [hreqs]⟩
  · obtain ⟨hidle, hlog, hreqs⟩ := runMove_of_idle hturn h.phase_idle hm
    have hrest : AtRest t := (runMove_good hgood hm).atRest_of_idle hidle
    exact ⟨t.reqs, hlog ▸ .atRest hrest, by rw [hreqs]⟩

/-- A move of a frame in flight: it stays in flight, or the block is at rest with its first bytes in the log (R45). -/
theorem InFlight.runMove_pending {m : Move} (h : InFlight base c s) (hm : runMove m s = .next t) :
    ∃ base' q', Pending t base' q' ∧ LogExtends s.cfg base (.command c :: s.reqs) base' q' := by
  obtain ⟨hfly, -, hreqs⟩ | ⟨r, -, -, rfl⟩ | ⟨-, rfl⟩ := h.runMove_cases hm
  · exact ⟨_, _, .inFlight hfly, by rw [hreqs]; exact .of_sublist s.cfg base (List.Sublist.refl _)⟩
  · exact ⟨_, _, .atRest ⟨rfl, rfl, fun hne => absurd h.stage hne⟩, h.logExtends⟩
  · exact ⟨_, _, .atRest ⟨rfl, rfl, fun hne => absurd rfl hne⟩, h.logExtends⟩

/-- What is pending does not depend on the coming moves. -/
theorem Pending.withMoves (h : Pending s base q) (ms : List Move) : Pending { s with env := ms } base q := by
  cases h with
  | atRest hrest => exact .atRest ⟨hrest.phase_idle, hrest.cur_none, hrest.stage_down⟩
  | inFlight hfly => exact .inFlight (hfly.withInputs s.reqs ms)

theorem Pending.runMove {m : Move} (h : Pending s base q) (hgood : Good s) (hm : runMove m s = .next t) :
    ∃ base' q', Pending t base' q' ∧ LogExtends s.cfg base q base' q' := by
  cases h with
  | atRest hrest =>
    obtain ⟨q', hpending, hsub⟩ := hrest.runMove_pending hgood hm
    exact ⟨_, q', hpending, .of_sublist s.cfg s.txlog hsub⟩
  | inFlight hfly => exact hfly.runMove_pending hm

theorem Pending.step (h : Pending s base q) (hgood : Good s) (hs : step s = .next t) :
    ∃ base' q', Pending t base' q' ∧ LogExtends s.cfg base q base' q' := by
  obtain rfl | ⟨m, ms, -, hm⟩ := step_cases hs
  · exact ⟨base, q, h, .of_sublist t.cfg base (List.Sublist.refl q)⟩
  · exact (h.withMoves ms).runMove (hgood.withInputs s.reqs ms) hm

/-- Over a whole run the log grows only by prefixes of the frames of commands in the queue, in its order. -/
theorem Pending.run (k : Nat) (h : Pending s base q) (hgood : Good s) (hrun : Claims.runs k s t) :
    LogExtends s.cfg base q t.txlog t.reqs := by
  induction k generalizing s base q with
  | zero =>
    obtain rfl : s = t := Host.Outcome.next.inj hrun
    exact h.logExtends
  | succ k ih =>
    obtain ⟨u, hstep, hrest⟩ := run_succ_inv hrun
    obtain ⟨base', q', hpending, hext⟩ := h.step hgood hstep
    have hcfg : u.cfg = s.cfg := (step_keptOrApplied hstep).cfg_eq
    exact hext.trans (hcfg ▸ ih hpending (step_good hgood hstep) hrest)

end Sys2Proof.Machine

/-! ## The obligations of 20_memory.md -/

namespace Sys2Proof.Proofs

open Sys2Proof.Machine

/-- Settles O37: by induction on the steps, where a state is at rest, or has one frame in flight whose taken bytes are
its first ones; the requests still waiting at the end come after those sent. -/
theorem logIsFramePrefixesInRequestOrder : Obligations.LogIsFramePrefixesInRequestOrder := by
  intro k s t hgood hrest hrun
  obtain ⟨sent, hlog, hsent, hsub⟩ := (Pending.atRest hrest).run k hgood hrun
  exact ⟨sent, hlog, hsent, (List.sublist_append_left _ _).trans hsub⟩

end Sys2Proof.Proofs

/-! ## The frame as its parts (30_encoding.md R60 to R63, R74, R75) -/

namespace Sys2Proof

open Machine

variable {m : OpcodeMap} {f p : List Byte} {op : Byte} {k : Kind} {i : Instr}

theorem xorAll_trailer : xorAll trailer = 0x00 := by decide

/-- The second form of the checksum: the trailer's bytes cancel (R74). -/
theorem xorAll_frameBody (op : Byte) (p : List Byte) :
    xorAll (frameBody op p) = 0xA5 ^^^ hiByte (BitVec.ofNat 16 (frameLength p.length)) ^^^
      loByte (BitVec.ofNat 16 (frameLength p.length)) ^^^ op ^^^ xorAll p := by
  simp [frameBody, xorAll_trailer, BitVec.xor_assoc]

/-- A byte sequence that meets R75's conditions but for those on the opcode map: its opcode byte is op and its payload
p. -/
structure IsFrame (op : Byte) (p f : List Byte) : Prop where
  length_ge   : 9 ≤ f.length
  marker      : f[0]? = some 0xA5
  lengthField : ∃ h l, f[1]? = some h ∧ f[2]? = some l ∧ h.toNat * 256 + l.toNat = f.length
  trailer_eq  : (f.drop (f.length - 5)).take 4 = trailer
  checksum    : f[f.length - 1]? = some (xorAll (f.take (f.length - 1)))
  opcode      : f[3]? = some op
  payload_eq  : p = (f.drop 4).take (f.length - 9)

/-- A sequence whose first four bytes are known is those bytes and what follows them. -/
theorem eq_header_append_drop {a b c d : Byte} (ha : f[0]? = some a) (hb : f[1]? = some b) (hc : f[2]? = some c)
    (hd : f[3]? = some d) : f = a :: b :: c :: d :: f.drop 4 := by
  match f with
  | a' :: b' :: c' :: d' :: rest =>
    obtain rfl : a' = a := Option.some.inj ha
    obtain rfl : b' = b := Option.some.inj hb
    obtain rfl : c' = c := Option.some.inj hc
    obtain rfl : d' = d := Option.some.inj hd
    rfl

/-- From its fifth byte on, a frame is its payload, its trailer and its last byte. -/
theorem IsFrame.drop_four (h : IsFrame op p f) : ∃ c, f.drop 4 = p ++ (trailer ++ [c]) := by
  have hlen := h.length_ge
  obtain ⟨c, hc⟩ : ∃ c, f.drop (f.length - 1) = [c] := List.length_eq_one_iff.mp (by simp; omega)
  have htail : f.drop (f.length - 5) = trailer ++ [c] := by
    rw [← List.take_append_drop 4 (f.drop (f.length - 5)), h.trailer_eq, List.drop_drop,
      show f.length - 5 + 4 = f.length - 1 by omega, hc]
  refine ⟨c, ?_⟩
  rw [← List.take_append_drop (f.length - 9) (f.drop 4), ← h.payload_eq, List.drop_drop,
    show 4 + (f.length - 9) = f.length - 5 by omega, htail]

/-- R75's conditions leave one byte sequence for an opcode byte and a payload: the frame of R60. -/
theorem IsFrame.eq_frameOf (h : IsFrame op p f) : f = frameOf op p := by
  obtain ⟨c, htail⟩ := h.drop_four
  obtain ⟨hi, lo, h1, h2, hfield⟩ := h.lengthField
  have hf : f = [0xA5, hi, lo, op] ++ p ++ trailer ++ [c] := by
    rw [eq_header_append_drop h.marker h1 h2 h.opcode, htail]
    simp
  have hlen : f.length = frameLength p.length := by simp [hf, frameLength, trailer]; omega
  obtain ⟨rfl, rfl⟩ := lengthField_bytes hi lo _ (hfield.trans hlen)
  have hbody : f = frameBody op p ++ [c] := hf
  have hcheck := h.checksum
  rw [hbody] at hcheck ⊢
  have hc : c = xorAll (frameBody op p) := by simpa using hcheck
  rw [frameOf, ← hc]

/-- The frame of R60 meets R75's conditions, where its length fits the length field (R62). -/
theorem isFrame_frameOf (op : Byte) (p : List Byte) (h : (frameOf op p).length ≤ 65535) :
    IsFrame op p (frameOf op p) where
  length_ge := by simp [frameLength]
  marker := rfl
  lengthField := ⟨_, _, rfl, rfl, by rw [length_frameOf] at h ⊢; exact lengthField_toNat _ h⟩
  trailer_eq := by
    have hlen : (frameOf op p).length - 5 = p.length + 4 := by simp [frameLength]; omega
    rw [hlen]
    simp [frameOf, frameBody, trailer]
  checksum := by
    rw [← List.dropLast_eq_take, dropLast_frameOf, ← List.getLast?_eq_getElem?, frameOf, List.getLast?_concat]
  opcode := rfl
  payload_eq := by
    rw [show (frameOf op p).length - 9 = p.length by simp [frameLength]]
    simp [frameOf, frameBody]

/-- What R75 asks of the payload, as the check of Decode does it and by the length and indices. -/
theorem checkPayload_eq_ok_iff : checkPayload (formatOf k) p = .ok () ↔ Claims.PayloadOf k p := by
  unfold Claims.PayloadOf
  by_cases hs : formatOf k = .s
  · have hinner : (p.drop 4).dropLast = (p.drop 4).take (p.length - 5) := by
      rw [List.dropLast_eq_take, List.length_drop, Nat.sub_sub]
    simp only [checkPayload, hs, ← hinner, ← List.getLast?_eq_getElem?]
    split_ifs <;> simp_all
  · have hfixed : checkPayload (formatOf k) p =
        if p.length = payloadLength 0 (formatOf k) then .ok () else .error .badPayloadLength := by
      unfold checkPayload
      split <;> simp_all
    simp [hfixed, hs]

/-- Behind four header bytes, the last five bytes of a sequence are those of its rest. -/
theorem drop_sub_five_of_header (a b c d : Byte) (rest : List Byte) (h : 9 ≤ (a :: b :: c :: d :: rest).length) :
    (a :: b :: c :: d :: rest).drop ((a :: b :: c :: d :: rest).length - 5) =
      rest.drop ((a :: b :: c :: d :: rest).length - 9) := by
  rw [show (a :: b :: c :: d :: rest).length - 5 = (a :: b :: c :: d :: rest).length - 9 + 4 by omega]
  rfl

/-- Behind four header bytes, the last byte of a sequence is that of its rest. -/
theorem getLast?_of_header (a b c d : Byte) (rest : List Byte) (h : 5 ≤ (a :: b :: c :: d :: rest).length) :
    (a :: b :: c :: d :: rest).getLast? = rest.getLast? := by
  cases rest with
  | nil => simp at h
  | cons e rest => simp

/-- What Decode has checked when it succeeds (R75). -/
theorem isFrame_of_decodeFrame (h : decodeFrame m f = .ok (k, p)) :
    ∃ op, IsFrame op p f ∧ m.kindOf op = some k ∧ checkPayload (formatOf k) p = .ok () := by
  unfold decodeFrame at h
  split at h
  case h_2 => cases h
  case h_1 a b c op rest =>
    split_ifs at h with hlen hmark hfield htrailer hsum
    rw [not_lt] at hlen
    rw [not_not] at hmark hfield htrailer hsum
    split at h
    case h_1 => cases h
    case h_2 k' hkind =>
      split at h
      case h_1 => cases h
      case h_2 hpayload =>
        obtain ⟨rfl, rfl⟩ := Prod.mk.inj (Except.ok.inj h)
        refine ⟨op, ⟨hlen, by rw [hmark]; rfl, ⟨b, c, rfl, rfl, hfield⟩, ?_, ?_, rfl, rfl⟩, hkind, hpayload⟩
        · rw [drop_sub_five_of_header a b c op rest hlen, htrailer]
        · rw [← List.dropLast_eq_take, ← List.getLast?_eq_getElem?, getLast?_of_header a b c op rest (by omega), hsum]

/-- Decode gives back a frame's kind and payload where its opcode byte and payload are of one kind (R75). -/
theorem IsFrame.decodeFrame_eq (h : IsFrame op p f) (hkind : m.kindOf op = some k)
    (hpayload : checkPayload (formatOf k) p = .ok ()) : decodeFrame m f = .ok (k, p) := by
  obtain ⟨hlen, hmark, ⟨lenHi, lenLo, hb, hc, hfield⟩, htrailer, hsum, hop, hp⟩ := h
  obtain ⟨rest, rfl⟩ : ∃ rest, f = 0xA5 :: lenHi :: lenLo :: op :: rest := ⟨_, eq_header_append_drop hmark hb hc hop⟩
  rw [drop_sub_five_of_header _ _ _ _ _ hlen] at htrailer
  rw [← List.dropLast_eq_take, ← List.getLast?_eq_getElem?, getLast?_of_header _ _ _ _ _ (by omega)] at hsum
  have hp : p = rest.take ((0xA5 :: lenHi :: lenLo :: op :: rest).length - 9) := hp
  simp only [decodeFrame, ne_eq, not_true_eq_false, if_false, hfield, htrailer, hsum, hkind, ← hp, hpayload,
    not_lt.mpr hlen]

end Sys2Proof

/-! ## Well-formedness as ranges (30_encoding.md R78) -/

namespace Sys2Proof

variable {i : Instr} {vs : List Int}

/-- The four checks of R78 as ranges of the operands. -/
theorem Instr.wellFormed_iff (i : Instr) :
    i.wellFormed = true ↔ (∀ v ∈ i.byteArgs, Claims.U8 v) ∧ (∀ v ∈ i.wordArgs, 0 ≤ v ∧ v ≤ 4294967295) ∧
      (∀ b ∈ i.text, b ≠ 0x00) ∧ ∀ v ∈ i.coordArgs, Claims.S32 v := by
  simp only [Instr.wellFormed, Instr.passes, Claims.U8, Claims.S32, Bool.and_eq_true, List.all_eq_true,
    decide_eq_true_eq, bne_iff_ne]
  tauto

/-- A command that has byte operands only is well-formed exactly when they are in range. -/
theorem Instr.wellFormed_iff_of_byteArgs (hb : i.byteArgs = vs) (hw : i.wordArgs = []) (ht : i.text = [])
    (hc : i.coordArgs = []) : i.wellFormed = true ↔ ∀ v ∈ vs, Claims.U8 v := by
  simp [i.wellFormed_iff, hb, hw, ht, hc]

/-- A command that has a text and coordinates is well-formed exactly when the text has no NUL and they are in range. -/
theorem Instr.wellFormed_iff_of_text {text : List Byte} (hb : i.byteArgs = []) (hw : i.wordArgs = [])
    (ht : i.text = text) (hc : i.coordArgs = vs) :
    i.wellFormed = true ↔ (∀ b ∈ text, b ≠ 0x00) ∧ ∀ v ∈ vs, Claims.S32 v := by
  simp [i.wellFormed_iff, hb, hw, ht, hc]

/-- A command that has coordinates only is well-formed exactly when they are in range. -/
theorem Instr.wellFormed_iff_of_coordArgs (hb : i.byteArgs = []) (hw : i.wordArgs = []) (ht : i.text = [])
    (hc : i.coordArgs = vs) : i.wellFormed = true ↔ ∀ v ∈ vs, Claims.S32 v := by
  simp [Instr.wellFormed_iff_of_text hb hw ht hc]

theorem Instr.wellFormed_setBaud (v : Int) : (Instr.setBaud v).wellFormed = true ↔ 0 ≤ v ∧ v ≤ 4294967295 := by
  simp [Instr.wellFormed_iff, Instr.byteArgs, Instr.wordArgs, Instr.text, Instr.coordArgs]

end Sys2Proof

/-! ## Payloads read back (30_encoding.md R64 to R71) -/

namespace Sys2Proof

open Machine

variable {p : List Byte} {i : Instr} {k : Kind}

theorem natCast_toNat_byteOf {v : Int} (h : Claims.U8 v) : ((byteOf v).toNat : Int) = v := by
  obtain ⟨h0, hmax⟩ := h
  exact natCast_toNat_ofInt_of_lt 8 v h0 (by omega)

/-- A byte operand is read back from its byte (R65). -/
theorem readB1_payloadB1 (f : Int → Instr) {v : Int} (h : Claims.U8 v) : readB1 f (payloadB1 v) = some (f v) := by
  simp only [readB1, payloadB1, natCast_toNat_byteOf h]

theorem readB2_payloadB2 (f : Int → Int → Instr) {v w : Int} (hv : Claims.U8 v) (hw : Claims.U8 w) :
    readB2 f (payloadB2 v w) = some (f v w) := by
  simp only [readB2, payloadB2, natCast_toNat_byteOf hv, natCast_toNat_byteOf hw]

/-- A baud value is read back from its four bytes (R69). -/
theorem readW32_payloadW32 (f : Int → Instr) {v : Int} (h0 : 0 ≤ v) (hv : v ≤ 4294967295) :
    readW32 f (payloadW32 v) = some (f v) := by
  simp only [readW32, payloadW32, word_of_bytes]
  rw [natCast_toNat_ofInt_of_lt 32 v h0 (by omega)]

/-- Coordinates are read back from their fields as the signed low halves (R67, R71). -/
@[simp] theorem coordsOf_payloadC (vs : List Int) : coordsOf (payloadC vs) = some (vs.map fun v => (u16 v).toInt) := by
  induction vs with
  | nil => rfl
  | cons v vs ih => simp [payloadC, coordsOf, ih, coordOf_hi_lo]

theorem readS_payloadS (f : List Byte → Int → Int → Instr) (text : List Byte) (x y : Int) :
    readS f (payloadS text x y) = some (f text (u16 x).toInt (u16 y).toInt) := by
  simp [readS, payloadS, payloadC, coordOf_hi_lo]

/-- A well-formed command is read back from its payload, each coordinate as its signed low half (R71). -/
theorem instrOf_payload (h : i.wellFormed = true) : instrOf i.kind (payload i) = some i.onWire := by
  obtain ⟨hbyte, -, -, -⟩ := i.wellFormed_iff.mp h
  cases i with
  | handshake | readBaud | stopMode | update | loadFont | loadPicture | clear => rfl
  | setBaud baud =>
    obtain ⟨h0, hmax⟩ := (Instr.wellFormed_setBaud baud).mp h
    exact readW32_payloadW32 _ h0 hmax
  | memoryMode v | screenRotation v | setEnFont v | setChFont v =>
    exact readB1_payloadB1 _ (hbyte v (by simp [Instr.byteArgs]))
  | setColor fg bg =>
    exact readB2_payloadB2 _ (hbyte fg (by simp [Instr.byteArgs])) (hbyte bg (by simp [Instr.byteArgs]))
  | drawPixel | drawLine | fillRect | drawCircle | fillCircle | drawTriangle | fillTriangle =>
    simp only [instrOf, Instr.kind, Instr.onWire, payload, readC2, readC3, readC4, readC6, coordsOf_payloadC,
      List.map_cons, List.map_nil]
  | drawString text x y | drawBitmap text x y => exact readS_payloadS _ text x y

theorem payloadLength_of_ne_s {fmt : Format} (h : fmt ≠ .s) (L : Nat) : payloadLength L fmt = payloadLength 0 fmt := by
  cases fmt with
  | s => exact absurd rfl h
  | _ => rfl

theorem payload_eq_payloadS (h : formatOf i.kind = .s) : ∃ x y, payload i = payloadS i.text x y := by
  cases i with
  | drawString text x y | drawBitmap text x y => exact ⟨x, y, rfl⟩
  | _ => cases h

/-- The payload of a well-formed command is one of its kind (R75, R78). -/
theorem payloadOf_payload (h : i.wellFormed = true) : Claims.PayloadOf i.kind (payload i) := by
  obtain ⟨-, -, htext, -⟩ := i.wellFormed_iff.mp h
  refine ⟨fun hs => ?_, fun hs => ?_⟩
  · rw [length_payload, payloadLength_of_ne_s hs]
  · have hlen : (payload i).length = 5 + i.text.length := by rw [length_payload, hs, payloadLength]
    obtain ⟨x, y, hp⟩ := payload_eq_payloadS hs
    refine ⟨by omega, ?_, ?_⟩
    · rw [← List.getLast?_eq_getElem?, hp, payloadS, List.getLast?_concat]
    · rw [hlen, hp, Nat.add_sub_cancel_left]
      simpa [payloadS, payloadC] using fun hmem => htext 0x00 hmem rfl

theorem readN_eq_some {j : Instr} (h : readN j p = some i) : p = payloadN ∧ i = j := by
  unfold readN at h
  split at h
  · exact ⟨rfl, (Option.some.inj h).symm⟩
  · cases h

theorem readB1_eq_some {f : Int → Instr} (h : readB1 f p = some i) : ∃ v, p = payloadB1 v ∧ i = f v := by
  unfold readB1 at h
  split at h
  case h_1 v => exact ⟨v.toNat, by simp [payloadB1, byteOf], (Option.some.inj h).symm⟩
  case h_2 => cases h

theorem readB2_eq_some {f : Int → Int → Instr} (h : readB2 f p = some i) :
    ∃ v w, p = payloadB2 v w ∧ i = f v w := by
  unfold readB2 at h
  split at h
  case h_1 v w => exact ⟨v.toNat, w.toNat, by simp [payloadB2, byteOf], (Option.some.inj h).symm⟩
  case h_2 => cases h

/-- Four bytes read as a word are the bytes of that word, most significant first (R69). -/
theorem bytes_of_word (a b c d : Byte) :
    (a ++ b ++ c ++ d).extractLsb' 24 8 = a ∧ (a ++ b ++ c ++ d).extractLsb' 16 8 = b ∧
      (a ++ b ++ c ++ d).extractLsb' 8 8 = c ∧ (a ++ b ++ c ++ d).extractLsb' 0 8 = d := by
  refine ⟨?_, ?_, ?_, ?_⟩
  · iterate 3 rw [BitVec.extractLsb'_append_eq_of_le (by omega)]
    simp
  · iterate 2 rw [BitVec.extractLsb'_append_eq_of_le (by omega)]
    exact BitVec.extractLsb'_append_eq_right
  · rw [BitVec.extractLsb'_append_eq_of_le (by omega)]
    exact BitVec.extractLsb'_append_eq_right
  · exact BitVec.extractLsb'_append_eq_right

theorem readW32_eq_some {f : Int → Instr} (h : readW32 f p = some i) : ∃ v, p = payloadW32 v ∧ i = f v := by
  unfold readW32 at h
  split at h
  case h_1 a b c d =>
    refine ⟨(a ++ b ++ c ++ d : BitVec 32).toNat, ?_, (Option.some.inj h).symm⟩
    obtain ⟨ha, hb, hc, hd⟩ := bytes_of_word a b c d
    simp only [payloadW32, BitVec.ofInt_natCast, BitVec.ofNat_toNat, BitVec.setWidth_eq, List.cons.injEq, and_true]
    exact ⟨ha.symm, hb.symm, hc.symm, hd.symm⟩
  case h_2 => cases h

/-- Fields read as coordinates are the fields of those coordinates (R67). -/
theorem payloadC_of_coordsOf {vs : List Int} (h : coordsOf p = some vs) : p = payloadC vs := by
  induction p using coordsOf.induct generalizing vs with
  | case1 =>
    obtain rfl : [] = vs := Option.some.inj h
    rfl
  | case2 => cases h
  | case3 a b p ih =>
    obtain ⟨ws, hws, rfl⟩ := Option.map_eq_some_iff.mp h
    obtain ⟨ha, hb⟩ := hi_lo_coordOf a b
    rw [payloadC, ha, hb, ← ih hws]

theorem readC2_eq_some {f : Int → Int → Instr} (h : readC2 f p = some i) :
    ∃ x y, p = payloadC [x, y] ∧ i = f x y := by
  unfold readC2 at h
  split at h
  case h_1 x y hp => exact ⟨x, y, payloadC_of_coordsOf hp, (Option.some.inj h).symm⟩
  case h_2 => cases h

theorem readC3_eq_some {f : Int → Int → Int → Instr} (h : readC3 f p = some i) :
    ∃ x y r, p = payloadC [x, y, r] ∧ i = f x y r := by
  unfold readC3 at h
  split at h
  case h_1 x y r hp => exact ⟨x, y, r, payloadC_of_coordsOf hp, (Option.some.inj h).symm⟩
  case h_2 => cases h

theorem readC4_eq_some {f : Int → Int → Int → Int → Instr} (h : readC4 f p = some i) :
    ∃ a b c d, p = payloadC [a, b, c, d] ∧ i = f a b c d := by
  unfold readC4 at h
  split at h
  case h_1 a b c d hp => exact ⟨a, b, c, d, payloadC_of_coordsOf hp, (Option.some.inj h).symm⟩
  case h_2 => cases h

theorem readC6_eq_some {f : Int → Int → Int → Int → Int → Int → Instr} (h : readC6 f p = some i) :
    ∃ a b c d e g, p = payloadC [a, b, c, d, e, g] ∧ i = f a b c d e g := by
  unfold readC6 at h
  split at h
  case h_1 a b c d e g hp => exact ⟨a, b, c, d, e, g, payloadC_of_coordsOf hp, (Option.some.inj h).symm⟩
  case h_2 => cases h

/-- A text payload that ends in NUL behind its coordinates is that of the text and coordinates read (R68). -/
theorem readS_eq_some {f : List Byte → Int → Int → Instr} (h : readS f p = some i) (hlen : 5 ≤ p.length)
    (hnul : p[p.length - 1]? = some 0x00) : ∃ text x y, p = payloadS text x y ∧ i = f text x y := by
  unfold readS at h
  split at h
  case h_2 => cases h
  case h_1 a b c d t =>
    refine ⟨_, _, _, ?_, (Option.some.inj h).symm⟩
    obtain ⟨hxHi, hxLo⟩ := hi_lo_coordOf a b
    obtain ⟨hyHi, hyLo⟩ := hi_lo_coordOf c d
    rw [← List.getLast?_eq_getElem?, getLast?_of_header a b c d t hlen] at hnul
    rw [payloadS, List.append_assoc, List.dropLast_append_getLast? 0x00 hnul]
    simp only [payloadC, hxHi, hxLo, hyHi, hyLo, List.cons_append, List.nil_append]

/-- A payload of a kind is the payload of the command read from it, which is of that kind (R75). -/
theorem kind_and_payload_of_instrOf (h : instrOf k p = some i) (hp : Claims.PayloadOf k p) :
    i.kind = k ∧ payload i = p := by
  cases k with
  | handshake | readBaud | stopMode | update | loadFont | loadPicture | clear =>
    obtain ⟨rfl, rfl⟩ := readN_eq_some h
    exact ⟨rfl, rfl⟩
  | setBaud =>
    obtain ⟨v, rfl, rfl⟩ := readW32_eq_some h
    exact ⟨rfl, rfl⟩
  | memoryMode | screenRotation | setEnFont | setChFont =>
    obtain ⟨v, rfl, rfl⟩ := readB1_eq_some h
    exact ⟨rfl, rfl⟩
  | setColor =>
    obtain ⟨v, w, rfl, rfl⟩ := readB2_eq_some h
    exact ⟨rfl, rfl⟩
  | drawPixel =>
    obtain ⟨x, y, rfl, rfl⟩ := readC2_eq_some h
    exact ⟨rfl, rfl⟩
  | drawCircle | fillCircle =>
    obtain ⟨x, y, r, rfl, rfl⟩ := readC3_eq_some h
    exact ⟨rfl, rfl⟩
  | drawLine | fillRect =>
    obtain ⟨a, b, c, d, rfl, rfl⟩ := readC4_eq_some h
    exact ⟨rfl, rfl⟩
  | drawTriangle | fillTriangle =>
    obtain ⟨a, b, c, d, e, g, rfl, rfl⟩ := readC6_eq_some h
    exact ⟨rfl, rfl⟩
  | drawString | drawBitmap =>
    obtain ⟨hlen, hnul, -⟩ := hp.2 rfl
    obtain ⟨text, x, y, rfl, rfl⟩ := readS_eq_some h hlen hnul
    exact ⟨rfl, rfl⟩

end Sys2Proof

/-! ## Encode and Decode on whole commands (30_encoding.md R71, R75) -/

namespace Sys2Proof

open Machine

variable {m : OpcodeMap} {f : List Byte} {i : Instr}

/-- Decode gives back kind and payload of the frame of every well-formed command whose length fits the field (R75). -/
theorem decodeFrame_encode (hm : m.Ok) (hwf : i.wellFormed = true) (hlen : (encode m i).length ≤ 65535) :
    decodeFrame m (encode m i) = .ok (i.kind, payload i) :=
  (isFrame_frameOf _ _ hlen).decodeFrame_eq (m.kindOf_opcode hm i.kind)
    (checkPayload_eq_ok_iff.mpr (payloadOf_payload hwf))

/-- What a successful decode has found: a kind, and a payload of it that reads as the command. -/
theorem decode_eq_ok (h : decode m f = .ok i) : ∃ k p, decodeFrame m f = .ok (k, p) ∧ instrOf k p = some i := by
  unfold decode at h
  split at h
  case h_1 => cases h
  case h_2 k p hframe =>
    split at h
    case h_1 j hinstr => exact ⟨k, p, hframe, hinstr.trans (congrArg some (Except.ok.inj h))⟩
    case h_2 => cases h

@[simp] theorem u16_toInt_u16 (v : Int) : u16 (u16 v).toInt = u16 v := BitVec.ofInt_toInt

@[simp] theorem hi_toInt_u16 (v : Int) : hi (u16 v).toInt = hi v := by rw [hi, u16_toInt_u16, hi]

@[simp] theorem lo_toInt_u16 (v : Int) : lo (u16 v).toInt = lo v := by rw [lo, u16_toInt_u16, lo]

/-- A coordinate within 16 signed bits is read back unchanged (R71). -/
theorem toInt_u16_of_fits {v : Int} (h : -32768 ≤ v ∧ v ≤ 32767) : (u16 v).toInt = v := by
  rw [u16, BitVec.toInt_ofInt]
  exact Int.bmod_eq_of_le (by omega) (by omega)

/-- A command whose coordinates fit 16 signed bits is what its frame shows (R71). -/
theorem Instr.onWire_of_fits (h : ∀ v ∈ i.coordArgs, -32768 ≤ v ∧ v ≤ 32767) : i.onWire = i := by
  have hfits : ∀ v ∈ i.coordArgs, (u16 v).toInt = v := fun v hv => toInt_u16_of_fits (h v hv)
  cases i with
  | drawPixel | drawLine | fillRect | drawCircle | fillCircle | drawTriangle | fillTriangle | drawString | drawBitmap =>
    simp only [Instr.coordArgs, List.forall_mem_cons] at hfits
    simp only [Instr.onWire, hfits]
  | _ => rfl

/-- The payload depends on what the frame shows of the coordinates only (R71). -/
@[simp] theorem payload_onWire (i : Instr) : payload i.onWire = payload i := by
  cases i with
  | drawPixel | drawLine | fillRect | drawCircle | fillCircle | drawTriangle | fillTriangle | drawString | drawBitmap =>
    simp only [Instr.onWire, payload, payloadS, payloadC, hi_toInt_u16, lo_toInt_u16]
  | _ => rfl

@[simp] theorem encode_onWire (m : OpcodeMap) (i : Instr) : encode m i.onWire = encode m i := by
  rw [encode, encode, Instr.kind_onWire, payload_onWire]

/-- The length of the frame of a command whose kind is one of several with one payload length (R61, R73). -/
theorem length_encode_of_kind_mem {ks : List Kind} {P : Nat} (h : i.kind ∈ ks)
    (hks : ∀ k ∈ ks, payloadLength i.text.length (formatOf k) = P) : (encode m i).length = frameLength P := by
  rw [length_encode, length_payload, hks _ h]

end Sys2Proof

/-! ## A frame written out, and the state after a command sends it (30_encoding.md R60 to R69) -/

namespace Sys2Proof.Machine

variable {s : State} {i : Instr} {lenHi lenLo : Byte}

/-- A frame without payload, its checksum worked out (R64, R74). -/
theorem wire_nil (op : Byte) : Claims.wire 0x00 0x09 op [] = Claims.wireN op := by
  have hsum : (0xA5 : Byte) ^^^ 0x00 ^^^ 0x09 ^^^ op ^^^ xorAll [] = 0xAC ^^^ op := by
    rw [xorAll_nil, show (0xA5 : Byte) ^^^ 0x00 ^^^ 0x09 = 0xAC by decide]
    exact BitVec.xor_zero
  rw [Claims.wire, hsum]
  rfl

/-- The frame of R60 written out, its length field read as its two bytes. -/
theorem frameOf_eq_wire {op : Byte} {p : List Byte} (hlen : lenHi.toNat * 256 + lenLo.toNat = frameLength p.length) :
    frameOf op p = Claims.wire lenHi lenLo op p := by
  obtain ⟨hhi, hlo⟩ := lengthField_bytes lenHi lenLo _ hlen
  rw [frameOf, xorAll_frameBody, frameBody, Claims.wire, hhi, hlo, trailer]

/-- Where the block can send, exec of a well-formed command that fits hands off its frame, written out (R60, R90). -/
theorem exec_sends_wire (h : CanSend s) (hwf : i.wellFormed = true)
    (hlen : lenHi.toNat * 256 + lenLo.toNat = frameLength (payload i).length)
    (hfits : frameLength (payload i).length ≤ s.cfg.maxFrame) :
    exec i s = .next (s.handedOff i (Claims.wire lenHi lenLo (s.cfg.opcodes.opcode i.kind) (payload i))) := by
  rw [exec_of_canSend h hwf (by rwa [length_encode]), encode, frameOf_eq_wire hlen]

/-- A frame of at most 21 bytes fits every admissible buffer (R7). -/
theorem exec_sends_short_wire (n : Nat) (h : CanSend s) (hwf : i.wellFormed = true)
    (hlen : frameLength (payload i).length = n) (hfield : lenHi.toNat * 256 + lenLo.toNat = n ∧ n ≤ 21) :
    exec i s = .next (s.handedOff i (Claims.wire lenHi lenLo (s.cfg.opcodes.opcode i.kind) (payload i))) := by
  obtain ⟨hn, hshort⟩ := hfield
  obtain ⟨hroom, -⟩ := h.cfg_ok
  exact exec_sends_wire h hwf (hn.trans hlen.symm) (by omega)

/-- R64 for any command of format N. -/
theorem exec_sends_wireN (h : CanSend s) (hwf : i.wellFormed = true) (hp : payload i = []) :
    exec i s = .next (s.handedOff i (Claims.wireN (s.cfg.opcodes.opcode i.kind))) := by
  rw [exec_sends_short_wire (lenHi := 0x00) (lenLo := 0x09) 9 h hwf (by rw [hp]; rfl) (by decide), hp, wire_nil]

/-- An ill-formed command does nothing, whatever the state (R78). -/
theorem exec_of_ill_formed (h : i.wellFormed = false) (s : State) : exec i s = .next s := by
  rw [exec_eq_runCommand, runCommand_eq, if_neg (by simp [h])]

end Sys2Proof.Machine

/-! ## The names of the textual form (30_encoding.md R77) -/

namespace Sys2Proof.Machine

/-- A name counts in a line by the kind it stands for only. -/
theorem parseCommand_congr_name {name name' : List Char} (h : '(' ∉ name) (h' : '(' ∉ name')
    (hkind : kindNamed name = kindNamed name') (rest : List Char) :
    parseCommand (name ++ '(' :: rest) = parseCommand (name' ++ '(' :: rest) := by
  have htake : ∀ n : List Char, '(' ∉ n → (n ++ '(' :: rest).takeWhile (· != '(') = n := by
    intro n hn
    rw [List.takeWhile_append_of_pos (by simpa using fun c hc => ne_of_mem_of_not_mem hc hn)]
    simp
  have hdrop : ∀ n : List Char, '(' ∉ n → (n ++ '(' :: rest).dropWhile (· != '(') = '(' :: rest := by
    intro n hn
    rw [List.dropWhile_append_of_pos (by simpa using fun c hc => ne_of_mem_of_not_mem hc hn)]
    simp
  simp only [parseCommand, htake _ h, htake _ h', hdrop _ h, hdrop _ h', hkind]

end Sys2Proof.Machine

/-! ## The obligations of 30_encoding.md -/

namespace Sys2Proof.Proofs

open Sys2Proof.Machine

/-- Settles O3: Decode gives back kind and payload, and the payload reads as the command with its coordinates reduced. -/
theorem decodeOfEncodeIsTheCommand : Obligations.DecodeOfEncodeIsTheCommand := by
  intro m i hm hwf hlen
  refine ⟨?_, Instr.onWire_of_fits⟩
  rw [decode, decodeFrame_encode hm hwf hlen]
  simp only [instrOf_payload hwf]

/-- Settles O4: the bytes that decode are the frame of one opcode byte and payload, and those are the command's own. -/
theorem encodeOfDecodeIsTheFrame : Obligations.EncodeOfDecodeIsTheFrame := by
  intro m f i h
  obtain ⟨k, p, hframe, hinstr⟩ := decode_eq_ok h
  obtain ⟨op, hf, hkind, hpayload⟩ := isFrame_of_decodeFrame hframe
  obtain ⟨rfl, rfl⟩ := kind_and_payload_of_instrOf hinstr (checkPayload_eq_ok_iff.mp hpayload)
  have hop : m.opcode i.kind = op := (OpcodeMap.kindOf_eq_some.mp hkind i.kind).mpr rfl
  rw [encode, hop, ← hf.eq_frameOf]

/-- Settles O5: R75's conditions are those of IsFrame and those on the opcode map and the payload. -/
theorem decodeSucceedsExactlyOnFrames : Obligations.DecodeSucceedsExactlyOnFrames := by
  refine ⟨fun m f k p => ⟨fun h => ?_, fun h => ?_⟩, fun m i => decodeFrame_encode⟩
  · obtain ⟨op, hf, hkind, hpayload⟩ := isFrame_of_decodeFrame h
    exact ⟨hf.length_ge, hf.marker, hf.lengthField, hf.trailer_eq, hf.checksum,
      ⟨op, hf.opcode, OpcodeMap.kindOf_eq_some.mp hkind⟩, hf.payload_eq, checkPayload_eq_ok_iff.mp hpayload⟩
  · obtain ⟨hlen, hmark, hfield, htrailer, hsum, ⟨op, hop, hkind⟩, hp, hpayload⟩ := h
    exact (IsFrame.mk hlen hmark hfield htrailer hsum hop hp).decodeFrame_eq (OpcodeMap.kindOf_eq_some.mpr hkind)
      (checkPayload_eq_ok_iff.mpr hpayload)

/-- Settles O7: the last byte is the checksum of the body, in which the trailer cancels. -/
theorem checksumIgnoresTheTrailer : Obligations.ChecksumIgnoresTheTrailer := by
  refine ⟨by decide, by decide, by decide, fun m i => ⟨?_, xorAll_with_checksum _⟩⟩
  rw [length_encode, ← xorAll_frameBody, encode, frameOf, List.getLast?_concat]

/-- Settles O9: the frame of a command is that of what its frame shows. -/
theorem sameWireCommandSameFrame : Obligations.SameWireCommandSameFrame := by
  intro m i j h
  rw [← encode_onWire m i, h, encode_onWire]

/-- Settles O10: each is well-formed, and its payload is empty; clear's opcode is that of R70's constraint. -/
theorem noPayloadCommandsSend : Obligations.NoPayloadCommandsSend := by
  intro s h
  obtain ⟨-, -, -, -, hclear⟩ := h.cfg_ok
  exact ⟨exec_sends_wireN h rfl rfl, exec_sends_wireN h rfl rfl, exec_sends_wireN h rfl rfl,
    exec_sends_wireN h rfl rfl, exec_sends_wireN h rfl rfl, exec_sends_wireN h rfl rfl,
    hclear ▸ exec_sends_wireN (i := .clear) h rfl rfl⟩

/-- Settles O11: each has the one byte operand, and its payload is that byte. -/
theorem byteCommandsSend : Obligations.ByteCommandsSend := by
  intro s v h h0 hmax
  have hv : ∀ w ∈ [v], Claims.U8 w := by simpa [Claims.U8] using And.intro h0 hmax
  have hwf {i : Instr} (hb : i.byteArgs = [v]) (hw : i.wordArgs = []) (ht : i.text = []) (hc : i.coordArgs = []) :
      i.wellFormed = true := (Instr.wellFormed_iff_of_byteArgs hb hw ht hc).mpr hv
  exact ⟨exec_sends_short_wire 10 h (hwf rfl rfl rfl rfl) rfl (by decide),
    exec_sends_short_wire 10 h (hwf rfl rfl rfl rfl) rfl (by decide),
    exec_sends_short_wire 10 h (hwf rfl rfl rfl rfl) rfl (by decide),
    exec_sends_short_wire 10 h (hwf rfl rfl rfl rfl) rfl (by decide)⟩

/-- Settles O12: the two byte operands are the payload, in order. -/
theorem setColorSendsForegroundFirst : Obligations.SetColorSendsForegroundFirst := by
  intro s fg bg h hfg0 hfg hbg0 hbg
  have hbytes : ∀ v ∈ [fg, bg], Claims.U8 v := by simpa [Claims.U8] using And.intro ⟨hfg0, hfg⟩ ⟨hbg0, hbg⟩
  have hwf : (Instr.setColor fg bg).wellFormed = true :=
    (Instr.wellFormed_iff_of_byteArgs rfl rfl rfl rfl).mpr hbytes
  exact exec_sends_short_wire 11 h hwf rfl (by decide)

/-- Settles O13: the word's value is in the range of R78, and its 32 bits are the word. -/
theorem setBaudSendsBigEndianWord : Obligations.SetBaudSendsBigEndianWord := by
  intro s b h
  have hwf : (Instr.setBaud b.toNat).wellFormed = true :=
    (Instr.wellFormed_setBaud _).mpr ⟨by omega, by have := b.isLt; omega⟩
  have hp : payload (.setBaud b.toNat) =
      [b.extractLsb' 24 8, b.extractLsb' 16 8, b.extractLsb' 8 8, b.extractLsb' 0 8] := by
    simp [payload, payloadW32]
  exact hp ▸ exec_sends_short_wire 13 h hwf rfl (by decide)

/-- Settles O14: the coordinates are in range, and the payload is their fields in order; draw-pixel's opcode is that of
R70's constraint. -/
theorem coordinateCommandsSend : Obligations.CoordinateCommandsSend := by
  intro s a b c d e f h ha hb hc hd he hf
  obtain ⟨-, -, -, hpixel, -⟩ := h.cfg_ok
  have hwf {i : Instr} {vs : List Int} (hb : i.byteArgs = []) (hw : i.wordArgs = []) (ht : i.text = [])
      (hc : i.coordArgs = vs) (hvs : ∀ v ∈ vs, Claims.S32 v) : i.wellFormed = true :=
    (Instr.wellFormed_iff_of_coordArgs hb hw ht hc).mpr hvs
  have h2 : ∀ v ∈ [a, b], Claims.S32 v := by simp [ha, hb]
  have h3 : ∀ v ∈ [a, b, c], Claims.S32 v := by simp [ha, hb, hc]
  have h4 : ∀ v ∈ [a, b, c, d], Claims.S32 v := by simp [ha, hb, hc, hd]
  have h6 : ∀ v ∈ [a, b, c, d, e, f], Claims.S32 v := by simp [ha, hb, hc, hd, he, hf]
  exact ⟨hpixel ▸ exec_sends_short_wire (i := .drawPixel a b) 13 h (hwf rfl rfl rfl rfl h2) rfl (by decide),
    exec_sends_short_wire 15 h (hwf rfl rfl rfl rfl h3) rfl (by decide),
    exec_sends_short_wire 15 h (hwf rfl rfl rfl rfl h3) rfl (by decide),
    exec_sends_short_wire 17 h (hwf rfl rfl rfl rfl h4) rfl (by decide),
    exec_sends_short_wire 17 h (hwf rfl rfl rfl rfl h4) rfl (by decide),
    exec_sends_short_wire 21 h (hwf rfl rfl rfl rfl h6) rfl (by decide),
    exec_sends_short_wire 21 h (hwf rfl rfl rfl rfl h6) rfl (by decide)⟩

/-- Settles O15: the frame has 14 + L bytes, and the two bytes of its length field are quotient and remainder by 256. -/
theorem textCommandsSend : Obligations.TextCommandsSend := by
  intro s text x y h htext hx hy hfits
  have hxy : ∀ v ∈ [x, y], Claims.S32 v := by simp [hx, hy]
  have hwf {i : Instr} (hb : i.byteArgs = []) (hw : i.wordArgs = []) (ht : i.text = text) (hc : i.coordArgs = [x, y]) :
      i.wellFormed = true := (Instr.wellFormed_iff_of_text hb hw ht hc).mpr ⟨htext, hxy⟩
  have hlen : frameLength (payloadS text x y).length = 14 + text.length := by
    simp [frameLength, payloadS, payloadC]
    omega
  have hfield : (BitVec.ofNat 8 ((14 + text.length) / 256)).toNat * 256 +
      (BitVec.ofNat 8 ((14 + text.length) % 256)).toNat = frameLength (payloadS text x y).length := by
    obtain ⟨-, hmax, -⟩ := h.cfg_ok
    rw [hlen, BitVec.toNat_ofNat, BitVec.toNat_ofNat]
    omega
  have hroom : frameLength (payloadS text x y).length ≤ s.cfg.maxFrame := hlen ▸ hfits
  exact ⟨exec_sends_wire h (hwf rfl rfl rfl rfl) hfield hroom, exec_sends_wire h (hwf rfl rfl rfl rfl) hfield hroom⟩

/-- Settles O6: by the payload length of each kind's format. -/
theorem frameLengthPerCommand : Obligations.FrameLengthPerCommand := by
  intro m i
  have hlen {ks : List Kind} (P : Nat) (hks : ∀ k ∈ ks, payloadLength i.text.length (formatOf k) = P)
      (h : i.kind ∈ ks) : (encode m i).length = frameLength P := length_encode_of_kind_mem h hks
  refine ⟨hlen 0 ?_, hlen 1 ?_, fun h => hlen 2 (ks := [.setColor]) ?_ (List.mem_singleton.mpr h), hlen 4 ?_,
    hlen 6 ?_, hlen 8 ?_, hlen 12 ?_, fun h => (hlen (5 + i.text.length) ?_ h).trans (by simp [frameLength]; omega)⟩ <;>
    simp [formatOf, payloadLength]

/-- Settles O23: exec of it is the identity, so the port's turn leaves only the queue shorter. -/
theorem illFormedCommandLeavesNoTrace : Obligations.IllFormedCommandLeavesNoTrace := by
  intro i rs s h
  refine ⟨exec_of_ill_formed h s, fun hready hq => ?_⟩
  rw [takeRequest_of_ready hq hready]
  exact exec_of_ill_formed h _

/-- Settles O53: the two spellings are names of one kind. -/
theorem shortNamesNameTheSameCommand : Obligations.ShortNamesNameTheSameCommand := by
  intro rest
  have henglish := parseCommand_congr_name (name := "set-en-font".toList) (name' := "set-english-font".toList)
    (by decide) (by decide) (by decide) rest
  have hchinese := parseCommand_congr_name (name := "set-ch-font".toList) (name' := "set-chinese-font".toList)
    (by decide) (by decide) (by decide) rest
  exact ⟨by simpa using henglish, by simpa using hchinese⟩

/-- Settles O54: by the kinds of operands a command has. -/
theorem wellFormedExactlyInRange : Obligations.WellFormedExactlyInRange := by
  refine ⟨by decide, fun v => ?_, fun v => ?_, fun v => ?_, fun v => ?_, fun v w => ?_, Instr.wellFormed_setBaud,
    fun a b => ?_, fun a b c => ?_, fun a b c => ?_, fun a b c d => ?_, fun a b c d => ?_, fun a b c d e f => ?_,
    fun a b c d e f => ?_, fun text a b => ?_, fun text a b => ?_⟩
  iterate 5
    · exact (Instr.wellFormed_iff_of_byteArgs rfl rfl rfl rfl).trans (by simp [Instr.byteArgs])
  iterate 7
    · exact (Instr.wellFormed_iff_of_coordArgs rfl rfl rfl rfl).trans (by simp [Instr.coordArgs])
  iterate 2
    · exact (Instr.wellFormed_iff_of_text rfl rfl rfl rfl).trans (by simp [Instr.text, Instr.coordArgs])

end Sys2Proof.Proofs

/-! ## The buffer primitives (40_codec.md R91) -/

namespace Sys2Proof.Machine

variable {s : State}

theorem State.storeByte_of_room (b : Byte) (h : s.wp < s.cfg.maxFrame) :
    s.storeByte b = .next { s with buf := s.buf.set s.wp b, wp := s.wp + 1 } := if_pos h

theorem State.storeByte_of_full (b : Byte) (h : s.cfg.maxFrame ≤ s.wp) :
    s.storeByte b = .fault (.bufferOverrun s.wp) := if_neg (Nat.not_lt.mpr h)

/-- Append is AppendRaw and then the fold of the byte into the checksum. -/
theorem State.append_of_room (b : Byte) (h : s.wp < s.cfg.maxFrame) :
    s.append b = .next { s with buf := s.buf.set s.wp b, wp := s.wp + 1, chk := s.chk ^^^ b } := by
  rw [State.append, State.storeByte_of_room b h, andThen_next, chkFold_eq]

theorem State.append_of_full (b : Byte) (h : s.cfg.maxFrame ≤ s.wp) :
    s.append b = .fault (.bufferOverrun s.wp) := by
  rw [State.append, State.storeByte_of_full b h, andThen]

end Sys2Proof.Machine

/-! ## Which of its ends a command takes (40_codec.md R90 to R93, 60_exceptions.md R207) -/

namespace Sys2Proof.Machine

variable {s t : State} {i : Instr}

/-- On a ready port a well-formed command takes one of three ends, with the checks in the order of R207. -/
theorem exec_of_ready (hready : s.portReady = true) (hwf : i.wellFormed = true) :
    exec i s = .next (
      if s.link = .down then { s with rsp := some ⟨.deviceUnavailable, 0⟩ }
      else if s.cfg.maxFrame < (encode s.cfg.opcodes i).length then { s with rsp := some ⟨.payloadTooLarge, 0⟩ }
      else s.handedOff i (encode s.cfg.opcodes i)) := by
  rw [exec_eq_runCommand, runCommand_eq, if_pos ⟨hready, hwf⟩, length_encode, encode]
  cases hlink : s.link with
  | down => rfl
  | up => exact (apply_ite Host.Outcome.next _ _ _).symm

theorem exec_of_too_long (hready : s.portReady = true) (hwf : i.wellFormed = true) (hup : s.link = .up)
    (hlong : s.cfg.maxFrame < (encode s.cfg.opcodes i).length) :
    exec i s = .next { s with rsp := some ⟨.payloadTooLarge, 0⟩ } := by
  rw [exec_of_ready hready hwf, if_neg (by simp [hup]), if_pos hlong]

/-- What must hold for a command to be sent; otherwise it is refused, waits, or ends in an early error. -/
structure Sends (i : Instr) (s : State) : Prop where
  ready      : s.portReady = true
  wellFormed : i.wellFormed = true
  link_up    : s.link = .up
  fits       : (encode s.cfg.opcodes i).length ≤ s.cfg.maxFrame

/-- A command that is sent leaves its frame handed off, admissible parameters or not. -/
theorem Sends.exec_eq (h : Sends i s) : exec i s = .next (s.handedOff i (encode s.cfg.opcodes i)) := by
  rw [exec_of_ready h.ready h.wellFormed, if_neg (by simp [h.link_up]), if_neg (Nat.not_lt.mpr h.fits)]

/-- A command that is not sent changes the response at most (R202, R205, R36, R78). -/
theorem exec_of_not_sends (h : exec i s = .next t) (hn : ¬ Sends i s) : ∃ r, t = { s with rsp := r } := by
  obtain ⟨rfl, -⟩ | ⟨hready, hwf, ⟨-, rfl⟩ | ⟨-, -, rfl⟩ | ⟨hup, hfits, -⟩⟩ := exec_cases h
  · exact ⟨t.rsp, rfl⟩
  · exact ⟨_, rfl⟩
  · exact ⟨_, rfl⟩
  · exact absurd ⟨hready, hwf, hup, hfits⟩ hn

end Sys2Proof.Machine

/-! ## What a built frame leaves in the buffer (40_codec.md R91, R100, R104) -/

namespace Sys2Proof.Machine

variable {s : State} {i : Instr} {f : List Byte} {a : Nat}

theorem State.get_handedOff_of_lt (h : a < f.length) : (s.handedOff i f).buf.get a = f[a]? := by
  rw [State.handedOff_buf, Memory.get_setAll, if_pos (by omega), Nat.sub_zero]

theorem State.get_handedOff_of_ge (h : f.length ≤ a) : (s.handedOff i f).buf.get a = s.buf.get a := by
  rw [State.handedOff_buf, Memory.get_setAll, if_neg (by omega)]

/-- A build the block can do puts its frame in flight. -/
theorem CanSend.inFlight_handedOff (h : CanSend s) (hwf : i.wellFormed = true)
    (hfits : (encode s.cfg.opcodes i).length ≤ s.cfg.maxFrame) :
    InFlight s.txlog i (s.handedOff i (encode s.cfg.opcodes i)) := by
  obtain ⟨-, -, hstage⟩ := s.portReady_iff.mp h.ready
  exact Machine.inFlight_handedOff h.cfg_ok h.link_up hstage hwf hfits

end Sys2Proof.Machine

/-! ## The last payload byte of a frame, and which frames are longest (30_encoding.md R68, 40_codec.md R93, R104) -/

namespace Sys2Proof

open Machine

variable {m : OpcodeMap} {i : Instr} {k : Kind} {fmt : Format}

/-- The payload's bytes stand in the frame from index 4 on (R60). -/
theorem getElem?_frameOf_payload (op : Byte) {p : List Byte} {j : Nat} (h : j < p.length) :
    (frameOf op p)[4 + j]? = p[j]? := by
  have hparts : frameOf op p = [0xA5, hiByte (BitVec.ofNat 16 (frameLength p.length)),
      loByte (BitVec.ofNat 16 (frameLength p.length)), op] ++ (p ++ (trailer ++ [xorAll (frameBody op p)])) := by
    simp [frameOf, frameBody]
  rw [hparts, List.getElem?_append_right (by simp), List.getElem?_append_left (by simpa using h)]
  simp

/-- Before the trailer of a text command's frame stands its NUL (R68). -/
theorem encode_nul (hwf : i.wellFormed = true) (hs : formatOf i.kind = .s) :
    (encode m i)[(encode m i).length - 6]? = some 0x00 := by
  obtain ⟨-, htext⟩ := payloadOf_payload hwf
  obtain ⟨hlen, hnul, -⟩ := htext hs
  have hindex : (encode m i).length - 6 = 4 + ((payload i).length - 1) := by
    rw [length_encode, frameLength]
    omega
  rw [hindex, encode, getElem?_frameOf_payload _ (by omega), hnul]

theorem formatOf_eq_s_iff : formatOf k = .s ↔ k ∈ [Kind.drawString, .drawBitmap] := by
  cases k <;> decide

theorem length_encode_of_s (hs : formatOf i.kind = .s) : (encode m i).length = 14 + i.text.length := by
  rw [length_encode, length_payload, hs, payloadLength, frameLength]
  omega

/-- No payload but a text's is longer than the six coordinates of a triangle. -/
theorem payloadLength_le_of_ne_s (h : fmt ≠ .s) (L : Nat) : payloadLength L fmt ≤ 12 := by
  cases fmt with
  | s => exact absurd rfl h
  | n | b1 | b2 | c2 | c3 | c4 | c6 | w32 => simp [payloadLength]

theorem length_encode_le_of_ne_s (h : formatOf i.kind ≠ .s) : (encode m i).length ≤ 21 := by
  have hpayload := payloadLength_le_of_ne_s h i.text.length
  rw [length_encode, length_payload, frameLength]
  omega

/-- Every buffer holds a frame that carries no text, so a frame too long for it carries one (R7, R93). -/
theorem length_encode_gt_iff {n : Nat} (hn : 21 ≤ n) :
    n < (encode m i).length ↔ i.kind ∈ [Kind.drawString, .drawBitmap] ∧ n - 14 < i.text.length := by
  rw [← formatOf_eq_s_iff]
  by_cases hs : formatOf i.kind = .s
  · rw [length_encode_of_s hs]
    simp only [hs, true_and]
    omega
  · have hshort : (encode m i).length ≤ 21 := length_encode_le_of_ne_s hs
    simp only [hs, false_and, iff_false]
    omega

end Sys2Proof

/-! ## The obligations of 40_codec.md -/

namespace Sys2Proof.Proofs

open Sys2Proof.Machine

/-- Settles O16: the build of R94 to R96 leaves the frame of R102, and the two checks before it come in R207's order. -/
theorem executeRefinesEncode : Obligations.ExecuteRefinesEncode := fun _ _ => exec_of_ready

/-- Settles O17: the buffer holds the frame of R60, which meets R75's conditions on length field, trailer and checksum,
and whose payload ends in NUL where its format is S. -/
theorem builtFramesMeetTheFrameInvariants : Obligations.BuiltFramesMeetTheFrameInvariants := by
  intro i s h hwf hfits
  have hflight := h.inFlight_handedOff hwf hfits
  obtain ⟨-, hmax, -⟩ := h.cfg_ok
  have hframe : IsFrame _ _ (encode s.cfg.opcodes i) := isFrame_frameOf _ _ (hfits.trans hmax)
  obtain ⟨hi, lo, h1, h2, hfield⟩ := hframe.lengthField
  refine ⟨_, encode s.cfg.opcodes i, hi, lo, exec_of_canSend h hwf hfits, hflight.buf_eq, hflight.flen_eq.symm, h1, h2,
    ?_⟩
  rw [hflight.flen_eq, State.handedOff_cfg]
  exact ⟨hfield.symm, hframe.checksum, xorAll_with_checksum _, hframe.trailer_eq, encode_nul hwf⟩

/-- Settles O18: the build is one write of the frame at index 0. -/
theorem buildStoresExactlyTheFrame : Obligations.BuildStoresExactlyTheFrame := by
  intro i s h hwf hfits
  exact ⟨_, exec_of_canSend h hwf hfits, fun _ => State.get_handedOff_of_lt, fun _ => State.get_handedOff_of_ge⟩

/-- Settles O19: a command that is sent leaves the hand-off's state, any other changes the response at most. -/
theorem commandsChangeNothingElse : Obligations.CommandsChangeNothingElse := by
  intro i s t h
  refine ⟨exec_commandFrame h, fun hready hwf hup hfits => ?_, fun hn => ?_⟩
  · have hsends : Sends i s := ⟨hready, hwf, hup, hfits⟩
    obtain rfl : s.handedOff i (encode s.cfg.opcodes i) = t := Host.Outcome.next.inj (hsends.exec_eq.symm.trans h)
    exact ⟨rfl, fun a ha => State.get_handedOff_of_ge (Nat.not_lt.mp ha)⟩
  · obtain ⟨r, rfl⟩ := exec_of_not_sends h fun hs => hn ⟨hs.ready, hs.wellFormed, hs.link_up, hs.fits⟩
    exact ⟨⟨rfl, rfl, rfl, rfl, rfl, rfl⟩, rfl, rfl, fun _ => rfl⟩

/-- Settles O20: the frame in the buffer and the datapath registers are those of Encode, under the one configuration. -/
theorem buildIgnoresHistory : Obligations.BuildIgnoresHistory := by
  intro i s1 s2 h1 h2 hcfg hwf hfits
  have hfits2 : (encode s2.cfg.opcodes i).length ≤ s2.cfg.maxFrame := hcfg ▸ hfits
  refine ⟨_, _, exec_of_canSend h1 hwf hfits, exec_of_canSend h2 hwf hfits2, ?_⟩
  rw [(h1.inFlight_handedOff hwf hfits).buf_eq, (h2.inFlight_handedOff hwf hfits2).buf_eq]
  simp [hcfg]

/-- Settles O22: by the capacity check of R93, and since every frame without text is shorter than the least buffer. -/
theorem capacityCheckIsExact : Obligations.CapacityCheckIsExact := by
  intro i s h hwf
  obtain ⟨hroom, -⟩ := h.cfg_ok
  exact ⟨exec_of_too_long h.ready hwf h.link_up, fun hfits => ⟨_, exec_of_canSend h hwf hfits, rfl⟩,
    length_encode_gt_iff hroom⟩

/-- Settles O27: both primitives are the store of one byte at `wp`, or its fault. -/
theorem appendStoresOneByteAtTheWritePointer : Obligations.AppendStoresOneByteAtTheWritePointer := by
  intro b s
  refine ⟨fun hroom => ?_, fun hfull => ⟨State.append_of_full b hfull, State.storeByte_of_full b hfull⟩⟩
  refine ⟨_, State.append_of_room b hroom, State.storeByte_of_room b hroom, rfl, ?_, fun a ha => ?_⟩
  · rw [Memory.get_set, if_pos rfl]
  · rw [Memory.get_set, if_neg ha]

end Sys2Proof.Proofs

/-! ## The two frames whose opcodes R70 fixes (43_draw_commands.md R140, R147) -/

namespace Sys2Proof.Machine

variable {m : OpcodeMap}

/-- A draw-pixel's frame is the same under every admissible map, for all coordinates (R140). -/
theorem encode_drawPixel_eq_wire (hm : m.Ok) (x y : Int) :
    encode m (.drawPixel x y) = Claims.wire 0x00 0x0D 0x20 [hi x, lo x, hi y, lo y] := by
  obtain ⟨-, hpixel, -⟩ := hm
  have hop : m.opcode (Instr.drawPixel x y).kind = 0x20 := hpixel
  have hlen : 13 = frameLength (payload (.drawPixel x y)).length := rfl
  rw [encode, hop]
  exact frameOf_eq_wire (Eq.trans (by decide) hlen)

/-- Clear's frame is the same under every admissible map (R147). -/
theorem encode_clear_eq_wireN (hm : m.Ok) : encode m .clear = Claims.wireN 0x2E := by
  obtain ⟨-, -, hclear⟩ := hm
  have hop : m.opcode Instr.clear.kind = 0x2E := hclear
  rw [encode, hop, ← wire_nil]
  exact frameOf_eq_wire (by decide)

end Sys2Proof.Machine

/-! ## The obligations of 43_draw_commands.md -/

namespace Sys2Proof.Proofs

open Sys2Proof.Machine

/-- Settles O1: the two opcodes are those of R70's constraint; the written-out frames are evaluated. -/
theorem sourceFramesAreExact : Obligations.SourceFramesAreExact := by
  intro m hm
  rw [encode_drawPixel_eq_wire hm, encode_clear_eq_wireN hm]
  exact ⟨by decide, by decide⟩

end Sys2Proof.Proofs

/-! ## Every move of a good state answers (10_state.md R22, 44_text_bitmap_commands.md R162, 60_exceptions.md R211) -/

namespace Sys2Proof.Machine

variable {s : State}

/-- The one read that could fault is the transport's, and in a good state it reads a byte of the frame in flight (R22). -/
theorem Good.runMove_next (h : Good s) (m : Move) : ∃ t, runMove m s = .next t := by
  refine Machine.runMove_next m s fun _ hsending hlt => ?_
  obtain ⟨base, c, hfly⟩ := h.inFlight_of_sending hsending
  obtain ⟨b, hbyte, -⟩ := hfly.next_byte hlt
  exact ⟨b, hbyte⟩

end Sys2Proof.Machine

/-! ## The obligations of 44_text_bitmap_commands.md -/

namespace Sys2Proof.Proofs

open Sys2Proof.Machine

/-- Settles O46: a step is the next move of a state that is good with its coming moves cut short, or nothing. -/
theorem goodStatesNeverStop : Obligations.GoodStatesNeverStop := by
  intro s h
  cases he : s.env with
  | nil => exact ⟨s, step_of_no_move he⟩
  | cons m ms =>
    have hms : Good { s with env := ms } := h.withInputs s.reqs ms
    obtain ⟨t, ht⟩ := hms.runMove_next m
    exact ⟨t, (step_of_move m ms he).trans ht⟩

end Sys2Proof.Proofs

/-! ## How a frame's write ends (45_uart_transport.md R178 to R180) -/

namespace Sys2Proof.Machine

variable {s : State} {r : WriteResult}

theorem endWrite_of_allowed (hsending : s.phase = .sending) (hallowed : r.allowed s = true) :
    endWrite r s = .next (s.respond r.status 0) := if_pos ⟨hsending, hallowed⟩

/-- A result its constraint does not allow is skipped (log 7). -/
theorem endWrite_of_not_allowed (hallowed : r.allowed s = false) : endWrite r s = .next s :=
  if_neg (by simp [hallowed])

/-- With no byte left, or no frame in flight, a byte acceptance is skipped (log 7). -/
theorem acceptByte_of_none_left (h : ¬(s.phase = .sending ∧ s.txi < s.flen.toNat)) : acceptByte s = .next s :=
  if_neg h

theorem State.not_ready_of_sending (hsending : s.phase = .sending) : s.portReady = false := by
  simp [State.portReady, hsending]

/-- Of the results only Ok needs every byte taken, so one allowed with bytes left tells of an error (R180). -/
theorem WriteResult.status_ne_ok_of_bytes_left (hallowed : r.allowed s = true) (hlt : s.txi < s.flen.toNat) :
    r.status ≠ .ok := by
  cases r with
  | ok =>
    have htxi : s.txi = s.flen.toNat := of_decide_eq_true hallowed
    exact absurd htxi (Nat.ne_of_lt hlt)
  | shortWrite => exact nofun
  | ioError => exact nofun

end Sys2Proof.Machine

/-! ## The link operations at the port (45_uart_transport.md R172 to R174) -/

namespace Sys2Proof.Machine

variable {r : Request} {rs : List Request} {ms : List Move} {s t : State}

theorem runs_one (h : step s = .next t) : Claims.runs 1 s t := run_succ_of_step 0 h rfl

/-- A ready port whose turn comes runs the request offered first, with that request and that move gone (R36). -/
theorem step_of_request (hready : s.portReady = true) (hq : s.reqs = r :: rs) (he : s.env = .takeRequest :: ms) :
    step s = runRequest r { s with reqs := rs, env := ms } := by
  rw [step_of_move _ _ he]
  exact takeRequest_of_ready (s := { s with env := ms }) hq hready

theorem execClose_of_ready (hready : s.portReady = true) :
    execClose s = .next { s with link := .down, rsp := some ⟨.ok, 0⟩ } := by
  rw [execClose, if_pos hready]
  exact congrArg Host.Outcome.next (State.respond_of_ready { s with link := .down } .ok 0 hready)

theorem execClose_of_busy (hbusy : s.portReady = false) : execClose s = .next s := if_neg (by simp [hbusy])

theorem execLinkUp_of_down (hready : s.portReady = true) (hdown : s.link = .down) :
    execLinkUp s = .next { s with linkStage := .opening } := if_pos (by simp [hready, hdown])

theorem execLinkUp_of_up (hup : s.link = .up) : execLinkUp s = .next s := if_neg (by simp [hup])

/-- s with a link-up in the given stage, waiting for its answer, and the moves `ms` to come (log 10). -/
def State.waiting (stage : LinkStage) (ms : List Move) (s : State) : State := { s with linkStage := stage, env := ms }

/-- The first step of a link-up: on a Down link it waits for the answer to open (R172). -/
theorem step_linkUp (hready : s.portReady = true) (hdown : s.link = .down) (hq : s.reqs = .linkUp :: rs)
    (he : s.env = .takeRequest :: ms) : step s = .next ({ s with reqs := rs }.waiting .opening ms) := by
  rw [step_of_request hready hq he]
  exact execLinkUp_of_down (s := { s with reqs := rs, env := ms }) hready hdown

/-- The stream is open: the link-up waits for the answer to configure (R172). -/
theorem step_opened (s : State) (ms : List Move) :
    step (s.waiting .opening (.answerOpen .ok :: ms)) = .next (s.waiting .configuring ms) := rfl

/-- A failed link-up of a block that was ready with its link Down leaves only the response (R172, R203). -/
theorem State.failLinkUp_waiting (stage : LinkStage) (ms : List Move) (sub : Fin 4) (hready : s.portReady = true)
    (hdown : s.link = .down) :
    (s.waiting stage ms).failLinkUp sub = { s with rsp := some ⟨.deviceUnavailable, sub⟩, env := ms } := by
  obtain ⟨hphase, hcur, hstage⟩ := s.portReady_iff.mp hready
  simp [State.waiting, State.failLinkUp, State.raiseError, State.respond, hphase, hcur, hstage, hdown]

theorem step_openFailed {a : OpenResult} (ha : a ≠ .ok) (hready : s.portReady = true) (hdown : s.link = .down) :
    step (s.waiting .opening (.answerOpen a :: ms)) =
      .next { s with rsp := some ⟨.deviceUnavailable, a.subcause⟩, env := ms } := by
  have hanswer : answerOpen a (s.waiting .opening ms) = .next ((s.waiting .opening ms).failLinkUp a.subcause) :=
    if_neg ha
  rw [← State.failLinkUp_waiting .opening ms a.subcause hready hdown, ← hanswer]
  rfl

theorem step_configureFailed (hready : s.portReady = true) (hdown : s.link = .down) :
    step (s.waiting .configuring (.answerConfigure .ioError :: ms)) =
      .next { s with rsp := some ⟨.deviceUnavailable, 3⟩, env := ms } := by
  rw [← State.failLinkUp_waiting .configuring ms 3 hready hdown]
  rfl

/-- Configure succeeds: LINECFG is applied, the link is Up, the response OK (R172, R173). -/
theorem step_configured (hready : s.portReady = true) :
    step (s.waiting .configuring (.answerConfigure .ok :: ms)) =
      .next { s with link := .up, lineCfg := lineCfgFixed, rsp := some ⟨.ok, 0⟩, env := ms } := by
  obtain ⟨hphase, hcur, hstage⟩ := s.portReady_iff.mp hready
  simp [step, runMove, answerConfigure, State.waiting, State.applyLineCfg, State.respond, hphase, hcur, hstage]

/-- The three failures of open, by their subcauses (R201). -/
theorem OpenResult.subcause_of_mem {a : OpenResult} {sub : Fin 4}
    (h : (a, sub) ∈ [(OpenResult.notFound, (1 : Fin 4)), (.permissionDenied, 2), (.ioError, 3)]) :
    a ≠ .ok ∧ a.subcause = sub := by
  simp only [List.mem_cons, Prod.mk.injEq, List.not_mem_nil, or_false] at h
  obtain ⟨rfl, rfl⟩ | ⟨rfl, rfl⟩ | ⟨rfl, rfl⟩ := h <;> exact ⟨nofun, rfl⟩

end Sys2Proof.Machine

/-! ## Reading the serial line (45_uart_transport.md R183, R185) -/

namespace Sys2Proof.Machine

/-- A character under LINECFG: start bit, bits 0 to 7, stop bit (R183). -/
theorem charBits_lineCfgFixed (b : Byte) : charBits lineCfgFixed b =
    [false, b.getLsbD 0, b.getLsbD 1, b.getLsbD 2, b.getLsbD 3, b.getLsbD 4, b.getLsbD 5, b.getLsbD 6, b.getLsbD 7,
     true] := rfl

/-- A byte is put together again from its eight bits. -/
theorem byteFromBits_getLsbD (b : Byte) :
    byteFromBits (b.getLsbD 0) (b.getLsbD 1) (b.getLsbD 2) (b.getLsbD 3) (b.getLsbD 4) (b.getLsbD 5) (b.getLsbD 6)
      (b.getLsbD 7) = b := by
  refine BitVec.eq_of_getLsbD_eq fun i hi => ?_
  simp only [byteFromBits, BitVec.getLsbD_append, BitVec.getLsbD_ofBool]
  interval_cases i <;> rfl

/-- The receiver skips an idle line of any length. -/
theorem lineRead_idle (n : Nat) (w : List Bool) : lineRead (List.replicate n true ++ w) = lineRead w := by
  induction n with
  | zero => rfl
  | succ n ih => rw [List.replicate_succ, List.cons_append, lineRead, ih]

/-- The receiver reads a character as its byte, whatever follows. -/
theorem lineRead_charBits (b : Byte) (w : List Bool) :
    lineRead (charBits lineCfgFixed b ++ w) = (lineRead w).map (b :: ·) := by
  rw [charBits_lineCfgFixed]
  simp only [List.cons_append, List.nil_append, lineRead, byteFromBits_getLsbD]

/-- Each byte on the line is a gap, none where the list of gaps has ended, and its character (R183). -/
theorem lineWave_cons (c : LineCfg) (gaps : List Nat) (b : Byte) (bs : List Byte) :
    lineWave c gaps (b :: bs) =
      List.replicate (gaps.headD 0) true ++ charBits c b ++ lineWave c gaps.tail bs := by
  cases gaps <;> rfl

/-- The receiver reads the whole line back as the bytes sent, and then reads on. -/
theorem lineRead_lineWave (gaps : List Nat) (bytes : List Byte) (w : List Bool) :
    lineRead (lineWave lineCfgFixed gaps bytes ++ w) = (lineRead w).map (bytes ++ ·) := by
  induction bytes generalizing gaps with
  | nil => simp [lineWave]
  | cons b bs ih =>
    rw [lineWave_cons, List.append_assoc, List.append_assoc, lineRead_idle, lineRead_charBits, ih, Option.map_map]
    rfl

end Sys2Proof.Machine

/-! ## The obligations of 45_uart_transport.md -/

namespace Sys2Proof.Proofs

open Sys2Proof.Machine

/-- Settles O30: the buffer holds the frame in flight, and only a byte acceptance writes the log. -/
theorem bytesAreAcceptedInOrder : Obligations.BytesAreAcceptedInOrder := by
  refine ⟨fun _ _ _ => InFlight.acceptByte_eq, fun _ => acceptByte_of_none_left, fun m s t hm h => ?_⟩
  obtain ⟨hlog, -⟩ | ⟨haccept, -⟩ | ⟨-, hlog, -⟩ := runMove_log_and_queue h
  · exact hlog
  · exact absurd haccept hm
  · exact hlog

/-- Settles O31: an allowed result answers, any other is skipped, and with no move left nothing happens. -/
theorem writeResultsFollowTheirConstraints : Obligations.WriteResultsFollowTheirConstraints := by
  intro s hsending
  refine ⟨fun h => ?_, fun h => ?_, fun h => ?_, fun h => ?_, fun h => ?_, fun henv => ?_⟩
  · exact endWrite_of_allowed hsending (decide_eq_true h)
  · exact endWrite_of_allowed hsending (decide_eq_true h)
  · exact endWrite_of_allowed hsending (decide_eq_true h)
  · exact endWrite_of_not_allowed (decide_eq_false h)
  · exact endWrite_of_not_allowed (decide_eq_false h)
  · exact ⟨step_of_no_move henv, State.not_ready_of_sending hsending⟩

/-- Settles O32: Ok is not allowed with bytes left, and a skipped result (log 7) gives no response. -/
theorem shortWriteIsNeverSuccess : Obligations.ShortWriteIsNeverSuccess := by
  intro r s t _ hlt h
  obtain ⟨rfl, -⟩ | ⟨-, hallowed, rfl⟩ := endWrite_cases h
  · exact .inl rfl
  · exact .inr ⟨rfl, r.status, rfl, WriteResult.status_ne_ok_of_bytes_left hallowed hlt⟩

/-- Settles O35: both results are allowed where the statement has them, so they end the write after k bytes. -/
theorem failedWriteLeavesAPrefix : Obligations.FailedWriteLeavesAPrefix := by
  intro i k r rs ms s hsend hwf hfits hr hq he
  have hk : k ≤ (encode s.cfg.opcodes i).length := by
    obtain ⟨-, hk⟩ | ⟨-, hk⟩ := hr <;> omega
  have hallowed (u : State) (htxi : u.txi = k) (hflen : u.flen.toNat = (encode s.cfg.opcodes i).length) :
      r.allowed u = true := by
    obtain ⟨rfl, hk⟩ | ⟨rfl, hk⟩ := hr <;> exact decide_eq_true (by omega)
  exact write_run hsend hwf hfits hk hallowed hq he

/-- Settles O38: the port's turn opens the link-up, and each answer leads to its next stage or to its response. -/
theorem linkUpFollowsItsTwoAnswers : Obligations.LinkUpFollowsItsTwoAnswers := by
  intro s rs ms hready hq
  refine ⟨fun r sub hdown hmem he => ?_, fun hdown he => ?_, fun hdown he => ?_, fun hup he => ?_⟩
  · obtain ⟨hr, rfl⟩ := OpenResult.subcause_of_mem hmem
    exact run_succ_of_step 1 (step_linkUp hready hdown hq he)
      (runs_one (step_openFailed hr hready hdown))
  · exact run_succ_of_step 2 (step_linkUp hready hdown hq he)
      (run_succ_of_step 1 (step_opened _ _) (runs_one (step_configureFailed hready hdown)))
  · exact run_succ_of_step 2 (step_linkUp hready hdown hq he)
      (run_succ_of_step 1 (step_opened _ _) (runs_one (step_configured hready)))
  · exact runs_one ((step_of_request hready hq he).trans (execLinkUp_of_up hup))

/-- Settles O39: a ready port that takes the close runs it, and on a busy port it is skipped. -/
theorem closeDropsTheLink : Obligations.CloseDropsTheLink :=
  ⟨fun _ _ hready hq => (takeRequest_of_ready hq hready).trans (execClose_of_ready hready),
    fun _ _ _ hready hq he => (step_of_request hready hq he).trans (execClose_of_ready hready),
    fun _ => execClose_of_ready, fun _ => execClose_of_busy⟩

/-- Settles O51: by the constants of LINECFG. -/
theorem characterIsStartDataStop : Obligations.CharacterIsStartDataStop := charBits_lineCfgFixed

/-- Settles O52: the receiver reads the characters back, and then an idle line. -/
theorem lineCarriesTheLogUnchanged : Obligations.LineCarriesTheLogUnchanged := by
  intro gaps bytes idle
  have hidle : lineRead (List.replicate idle true) = some [] := by simpa [lineRead] using lineRead_idle idle []
  rw [lineRead_lineWave, hidle, Option.map_some, List.append_nil]

end Sys2Proof.Proofs

/-! ## The coming moves are the outside's (70_reset_and_hazards.md R230) -/

namespace Sys2Proof.Machine

variable {s t : State}

theorem runRequest_env {r : Request} (h : runRequest r s = .next t) : t.env = s.env := by
  cases r with
  | command i => exact (exec_commandFrame h).env
  | linkUp => obtain ⟨rfl, -⟩ | ⟨-, -, rfl⟩ := execLinkUp_cases h <;> rfl
  | close => obtain ⟨rfl, -⟩ | ⟨-, rfl⟩ := execClose_cases h <;> rfl

/-- No move of the outside changes which moves come after it (logs 6, 22). -/
theorem runMove_env {m : Move} (h : runMove m s = .next t) : t.env = s.env := by
  cases m with
  | takeRequest =>
    obtain ⟨rfl, -⟩ | ⟨r, rs, -, -, hr⟩ := takeRequest_cases h
    · rfl
    · exact runRequest_env (s := { s with reqs := rs }) hr
  | acceptByte => obtain ⟨rfl, -⟩ | ⟨b, -, -, -, rfl⟩ := acceptByte_cases h <;> rfl
  | endWrite r => obtain ⟨rfl, -⟩ | ⟨-, -, rfl⟩ := endWrite_cases h <;> rfl
  | answerOpen r => obtain ⟨rfl, -⟩ | ⟨-, -, rfl⟩ | ⟨-, -, rfl⟩ := answerOpen_cases h <;> rfl
  | answerConfigure r => obtain ⟨rfl, -⟩ | ⟨-, -, rfl⟩ | ⟨-, -, rfl⟩ := answerConfigure_cases h <;> rfl
  | assertReset =>
    obtain rfl : s.resetMove = t := Host.Outcome.next.inj h
    rfl

end Sys2Proof.Machine

/-! ## A write that is never answered (60_exceptions.md R215) -/

namespace Sys2Proof.Machine

variable {base : List Byte} {c : Instr} {s : State}

/-- Neither a write's result nor a reset is among the moves, the two ways a frame in flight can end (R178, R231). -/
def NoAnswerIn (ms : List Move) : Prop := ∀ m ∈ ms, (∀ r, m ≠ .endWrite r) ∧ m ≠ .assertReset

/-- With no answer coming, a step keeps the frame in flight and gives no response, and still no answer is coming. -/
theorem InFlight.step_of_noAnswer (h : InFlight base c s) (hquiet : NoAnswerIn s.env) :
    ∃ t, step s = .next t ∧ InFlight base c t ∧ t.rsp = s.rsp ∧ NoAnswerIn t.env := by
  cases he : s.env with
  | nil => exact ⟨s, step_of_no_move he, h, rfl, hquiet⟩
  | cons m ms =>
    rw [he] at hquiet
    obtain ⟨⟨hresult, hreset⟩, hms⟩ := List.forall_mem_cons.mp hquiet
    have hfly : InFlight base c { s with env := ms } := h.withInputs s.reqs ms
    obtain ⟨t, ht⟩ := hfly.runMove_next m
    obtain ⟨hkept, hrsp, -⟩ | ⟨r, hr, -⟩ | ⟨hr, -⟩ := hfly.runMove_cases ht
    · have henv : t.env = ms := runMove_env ht
      exact ⟨t, (step_of_move m ms he).trans ht, hkept, hrsp, henv ▸ hms⟩
    · exact absurd hr (hresult r)
    · exact absurd hr hreset

theorem InFlight.run_of_noAnswer (k : Nat) (h : InFlight base c s) (hquiet : NoAnswerIn s.env) :
    ∃ t, Claims.runs k s t ∧ InFlight base c t ∧ t.rsp = s.rsp := by
  induction k generalizing s with
  | zero => exact ⟨s, rfl, h, rfl⟩
  | succ k ih =>
    obtain ⟨u, hstep, hfly, hrsp, hquiet'⟩ := h.step_of_noAnswer hquiet
    obtain ⟨t, hrun, hfly', hrsp'⟩ := ih hfly hquiet'
    exact ⟨t, run_succ_of_step k hstep hrun, hfly', hrsp'.trans hrsp⟩

/-- A reset makes the port ready, whatever was in progress (R230, R231). -/
theorem State.portReady_resetMove (s : State) : s.resetMove.portReady = true :=
  s.resetMove.portReady_iff.mpr ⟨s.resetMove_phase, s.resetMove_cur, s.resetMove_linkStage⟩

end Sys2Proof.Machine

/-! ## The obligations of 60_exceptions.md -/

namespace Sys2Proof.Proofs

open Sys2Proof.Machine

/-- Settles O36: no step takes the frame out of flight, and a frame in flight is in Sending with its port not ready. -/
theorem writeWithoutAnswerHangs : Obligations.WriteWithoutAnswerHangs := by
  intro base c s h
  refine ⟨fun hquiet k => ?_, s.resetMove, rfl, s.portReady_resetMove⟩
  obtain ⟨t, hrun, hfly, hrsp⟩ := h.run_of_noAnswer k hquiet
  exact ⟨t, hrun, hfly.phase_sending, hfly.cur_eq, hfly.not_ready, hrsp⟩

/-- Settles O21: the link check is the first of R207's order, and its error ends a ready port's command. -/
theorem commandOnDownLinkIsUnavailable : Obligations.CommandOnDownLinkIsUnavailable := by
  intro i s hready hwf hdown
  rw [exec_of_ready hready hwf, if_pos hdown]

/-- Settles O28: an error is the response of R200. -/
theorem errorIsAResponseAndNothingElse : Obligations.ErrorIsAResponseAndNothingElse := fun _ _ _ => rfl

/-- Settles O29: by the two tables, entry by entry. -/
theorem statusNumbers : Obligations.StatusNumbers := ⟨rfl, rfl⟩

end Sys2Proof.Proofs

/-! ## Answers to a request that is no longer running (70_reset_and_hazards.md R231) -/

namespace Sys2Proof.Machine

variable {s : State}

/-- With no frame in flight a write's result is skipped (log 7). -/
theorem endWrite_of_not_sending (r : WriteResult) (h : s.phase ≠ .sending) : endWrite r s = .next s :=
  if_neg fun ⟨hsending, _⟩ => h hsending

/-- An answer to open that nothing waits for is skipped (log 7). -/
theorem answerOpen_of_not_opening (r : OpenResult) (h : s.linkStage ≠ .opening) : answerOpen r s = .next s := if_pos h

/-- An answer to configure that nothing waits for is skipped (log 7). -/
theorem answerConfigure_of_not_configuring (r : ConfigureResult) (h : s.linkStage ≠ .configuring) :
    answerConfigure r s = .next s := if_pos h

/-- After a reset no frame is in flight, whatever was before it (R230). -/
theorem State.resetMove_not_sending (s : State) : s.resetMove.phase ≠ .sending := by
  rw [s.resetMove_phase]
  exact nofun

/-- After a reset no link-up waits for an answer, whatever was before it (R231). -/
theorem State.resetMove_not_waiting (s : State) {stage : LinkStage} (h : stage ≠ .notRunning) :
    s.resetMove.linkStage ≠ stage := by
  rw [s.resetMove_linkStage]
  exact h.symm

end Sys2Proof.Machine

/-! ## The obligations of 70_reset_and_hazards.md -/

namespace Sys2Proof.Proofs

open Sys2Proof.Machine

/-- Settles O41: the step is the reset of the state whose next move is gone, and the move list is not among the fields
the statement reads. -/
theorem resetTakesTheResetValues : Obligations.ResetTakesTheResetValues := by
  intro s ms henv
  have hstep : step s = .next { s with env := ms }.resetMove := step_of_move _ ms henv
  exact ⟨_, hstep, State.resetMove_phase _, State.resetMove_cur _, State.resetMove_link _, State.resetMove_rsp _,
    State.resetMove_txlog _, State.resetMove_lineCfg _, State.resetMove_cfg _, State.portReady_resetMove _⟩

/-- Settles O42: the reset keeps the log, and after it neither a write nor a link-up is running, so what would take a
byte or give a response is skipped. -/
theorem resetAbandonsTheRequest : Obligations.ResetAbandonsTheRequest := by
  constructor
  · intro base c s h
    have hidle : s.resetMove.phase ≠ .sending := s.resetMove_not_sending
    exact ⟨s.resetMove, rfl, s.resetMove_rsp, s.resetMove_phase, s.resetMove_txlog.trans h.txlog_eq,
      acceptByte_of_none_left fun ⟨hsending, _⟩ => hidle hsending, fun r => endWrite_of_not_sending r hidle⟩
  · intro s _
    exact ⟨s.resetMove, rfl, s.resetMove_rsp, s.resetMove_link,
      fun r => answerOpen_of_not_opening r (s.resetMove_not_waiting nofun),
      fun r => answerConfigure_of_not_configuring r (s.resetMove_not_waiting nofun)⟩

end Sys2Proof.Proofs

/-! ## A written-out frame decodes to the command whose frame it is (30_encoding.md R75) -/

namespace Sys2Proof.Machine

variable {m : OpcodeMap} {i : Instr} {f : List Byte}

/-- Decode inverts the frame of a command whose coordinates are in the signed 16-bit range, the frame given as bytes. -/
theorem decode_eq_of_encode_eq (hm : m.Ok) (hwf : i.wellFormed = true)
    (hcoords : ∀ v ∈ i.coordArgs, -32768 ≤ v ∧ v ≤ 32767) (hframe : encode m i = f ∧ f.length ≤ 65535) :
    decode m f = .ok i := by
  obtain ⟨rfl, hlen⟩ := hframe
  obtain ⟨hdecode, hwire⟩ := Proofs.decodeOfEncodeIsTheCommand m i hm hwf hlen
  rw [hdecode, hwire hcoords]

end Sys2Proof.Machine

/-! ## The written-out frames of 95_test_vectors.md -/

namespace Sys2Proof.Proofs

open Sys2Proof.Machine

/-- Settles O2: each vector's command has exactly the written-out frame, by evaluating Encode (V10.2, V10.12, V11.1,
V13.1, V16.1), and Decode inverts Encode. -/
theorem writtenFramesDecode : Obligations.WrittenFramesDecode :=
  have hm : OpcodeMap.table.Ok := OpcodeMap.table_ok
  ⟨decode_eq_of_encode_eq hm (by decide) (by decide) (by decide),
    decode_eq_of_encode_eq hm (by decide) (by decide) (by decide),
    decode_eq_of_encode_eq hm (by decide) (by decide) (by decide),
    decode_eq_of_encode_eq hm (by decide) (by decide) (by decide),
    decode_eq_of_encode_eq hm (by decide) (by decide) (by decide)⟩

end Sys2Proof.Proofs
